-- ==== Sys2Proof/Word.lean ====
section
/-! DEFINITION. A word with its width, and the names of the four input lines and of the trackers (00_scope.md R6, 10_state.md R21). The words on the
ports take their widths from the parameters and stand in Config.lean. -/

namespace Sys2Proof

/-- A word of some width together with its width: an instruction's operand, whose width a parameter of R6 fixes. -/
structure Bits where
  width : Nat
  value : BitVec width
deriving DecidableEq, Repr

/-- The four input lines, by the names of 10_state.md R21. -/
inductive Line where
  | rotaryA
  | rotaryB
  | rotaryButton
  | snoozeButton
deriving DecidableEq, Repr

/-- The trackers the spec names (R6, R8): ROT, the rotary-control tracker, and SNZ, the snooze tracker. How many trackers
are built is N_TRACKERS (Config.lean). -/
inductive TrackerId where
  | rot
  | snz
deriving DecidableEq, Repr

/-- The place of a tracker among the N_TRACKERS built, in the order R6 names them. -/
def TrackerId.index : TrackerId → Nat
  | .rot => 0
  | .snz => 1

end Sys2Proof
end

