-- ==== Sys2Proof/Config.lean ====
section
/-! DEFINITION. The eight build-time parameters of 00_scope.md R6, the words and ports whose widths they fix, and the free
values (log entries 1, 3, 4, 14 and 15). -/

namespace Sys2Proof

/-! ### The parameters -/

/-- The LEVEL bit assignment of R6: which bit of a level vector is which line. -/
structure LineBits (nLevels : Nat) where
  rotaryA : Fin nLevels
  rotaryB : Fin nLevels
  rotaryButton : Fin nLevels
  snoozeButton : Fin nLevels
deriving DecidableEq, Repr

/-- The parameters of R6, each an argument of the whole machine: the state, the ports, the instructions' meanings and the
step take them from here. They are "fixed when the block is built" and no command writes them (R6, 10_state.md R29). -/
structure Config where
  /-- N_LEVELS: how many levels a capture samples (R6). -/
  nLevels : Nat
  /-- N_TRACKERS: how many trackers are built, ROT the first and SNZ the second (R6). -/
  nTrackers : Nat
  /-- OPCODE_WIDTH: the bits of `cmd_op` (R6, 30_encoding.md R61). -/
  opcodeWidth : Nat
  /-- RESP_WIDTH: the data bits of a response (R6, 30_encoding.md R66). -/
  respWidth : Nat
  /-- LEVEL bit assignment (R6, R21). -/
  lines : LineBits nLevels
  /-- ROT_WATCH: the level bits the rotary tracker compares (R101). -/
  rotWatch : BitVec nLevels
  /-- SNZ_WATCH: the level bits the snooze tracker compares (R101). -/
  snzWatch : BitVec nLevels
  /-- RESET_LEVELS: what `S.L` and every `prev` field hold after reset (R31). -/
  resetLevels : BitVec nLevels
deriving DecidableEq, Repr

/-- The defaults of R6: bit 0 = rotaryA, bit 1 = rotaryB, bit 2 = rotary button, bit 3 = snooze button
(92_eei_decisions.md D4). -/
@[reducible] def Config.default : Config :=
  { nLevels := 4
    nTrackers := 2
    opcodeWidth := 4
    respWidth := 4
    lines := { rotaryA := 0, rotaryB := 1, rotaryButton := 2, snoozeButton := 3 }
    rotWatch := 0b0111#4
    snzWatch := 0b1000#4
    resetLevels := 0b0000#4 }

/-- The tracker is one of the N_TRACKERS built (R6). -/
def TrackerId.built (c : Config) (t : TrackerId) : Bool := decide (t.index < c.nTrackers)

/-! ### The words on the ports -/

/-- A level vector: the N_LEVELS sampled levels (R6, R21). Bit 0 is the least significant bit (R7). -/
abbrev Levels (c : Config) := BitVec c.nLevels

/-- A command word on `cmd_op`, of OPCODE_WIDTH bits (R6, R61). -/
abbrev Opcode (c : Config) := BitVec c.opcodeWidth

/-- The data of a response, of RESP_WIDTH bits (R6, R66). -/
abbrev RespData (c : Config) := BitVec c.respWidth

/-- The bundle of the capture port, cap_strobe above the levels `cap_pins`: format E, five bits by default (R64). -/
abbrev Bundle (c : Config) := BitVec (1 + c.nLevels)

/-! ### The ports -/

/-- The inputs of one step: the input ports of R60 as they stand at one rising edge of `clk`. Every input is a definite
0 or 1 (70_reset_and_hazards.md R179; log entry 5). -/
structure Inputs (c : Config) where
  /-- `rst`: synchronous reset, active high (R170). -/
  rst : Bool
  /-- `cmd_valid`: a command is presented this step (R61). -/
  cmdValid : Bool
  /-- `cmd_op`: the command's opcode, ignored when `cmd_valid = 0` (R60, R62). -/
  cmdOp : Opcode c
  /-- `cap_strobe`: the pin-change handler fires this step (R64). -/
  capStrobe : Bool
  /-- `cap_pins`: the levels sampled by this capture, ignored when `cap_strobe = 0` (R60, R64). -/
  capPins : Levels c
deriving DecidableEq, Repr, Inhabited

/-- The output ports of R60. -/
structure Outputs (c : Config) where
  respValid : Bool
  respData : RespData c
  respErr : Bool
deriving DecidableEq, Repr

/-! ### Free values -/

/-- FREE VALUE. The inputs the host and the capture source present in the `n`-th step for which `State.pending` lists
none. "In every step the capture source may or may not fire, with any 4-bit `cap_pins`. A model must not restrict it"
(93_implementation_defined.md I5; 00_scope.md R12; log entry 3). Safe: nothing about it can be proved. -/
opaque Config.freeInputs (c : Config) : Nat → Inputs c

/-- FREE VALUE. What SNAPSHOT's data is for the given levels in a block whose RESP_WIDTH is less than N_LEVELS, where the
levels do not fit and the spec states no result (R67 gives bit i of the data as `S.L[i]`; log entry 14). Safe. -/
opaque Config.narrowSnapshot (c : Config) : Levels c → RespData c

end Sys2Proof
end

