-- ==== Sys2Proof/Syntax.lean ====
section
/-! DEFINITION. The instructions: one constructor per row of spec/opcode_table.json. -/

namespace Sys2Proof

/-- The eight commands and the reserved range of 30_encoding.md R62 and R63, and the CAPTURE event of R64. An operand
carries its own width, so that one type serves a block of every width (R6); WellFormed.lean holds it to the block's. -/
inductive Instr where
  /-- NOP, 0x0 (42_control.md R140). -/
  | nop
  /-- SNAPSHOT, 0x1 (40_input_capture.md R81). -/
  | snapshot
  /-- CONSUME_CHANGED, 0x2 (40_input_capture.md R82). -/
  | consumeChanged
  /-- ROT_UPDATE, 0x3 (41_debounce_trackers.md R104). -/
  | rotUpdate
  /-- ROT_CW, 0x4 (R105). -/
  | rotCw
  /-- ROT_PRESS, 0x5 (R106). -/
  | rotPress
  /-- SNZ_UPDATE, 0x6 (R107). -/
  | snzUpdate
  /-- SNZ_PRESS, 0x7 (R108). -/
  | snzPress
  /-- RESERVED, by default 0x8 to 0xF, with the opcode presented, of OPCODE_WIDTH bits (42_control.md R141). -/
  | reserved (op : Bits)
  /-- CAPTURE, the event of the capture port, with the sampled levels, N_LEVELS of them (40_input_capture.md R80). -/
  | capture (pins : Bits)
deriving DecidableEq, Repr

end Sys2Proof
end

