-- ==== Sys2Proof/WellFormed.lean ====
section
/-! DEFINITION. Which terms of `Instr` stand for something that can be presented on a port of a block with the given
parameters. -/

namespace Sys2Proof

/-- The opcode numbers that are reserved: 8 and above (30_encoding.md R62, R63), and the opcodes of a tracker that is not
built (00_scope.md R6; log entry 15). With the default parameters: those with `op[3] = 1`. -/
def reservedOpcode (c : Config) (op : Nat) : Bool :=
  match op with
  | 0 | 1 | 2 => false
  | 3 | 4 | 5 => !TrackerId.rot.built c
  | 6 | 7 => !TrackerId.snz.built c
  | _ => true

/-- The number is an opcode of OPCODE_WIDTH bits, and not a reserved one. -/
def definedOpcode (c : Config) (op : Nat) : Bool := decide (op < 2 ^ c.opcodeWidth) && !reservedOpcode c op

/-- A command is well formed where the block has its opcode (R62), a reserved one where it has the block's width and is
reserved (R63), and a capture where it has the block's levels, any of them (00_scope.md R12, 93_implementation_defined.md
I5). A command has no operand (R61). -/
def Instr.wellFormed (c : Config) : Instr → Bool
  | .nop => definedOpcode c 0x0
  | .snapshot => definedOpcode c 0x1
  | .consumeChanged => definedOpcode c 0x2
  | .rotUpdate => definedOpcode c 0x3
  | .rotCw => definedOpcode c 0x4
  | .rotPress => definedOpcode c 0x5
  | .snzUpdate => definedOpcode c 0x6
  | .snzPress => definedOpcode c 0x7
  | .reserved op => decide (op.width = c.opcodeWidth) && reservedOpcode c op.value.toNat
  | .capture pins => decide (pins.width = c.nLevels)

/-- Is the term a command (format C, presented on `cmd_op`), not the event of the capture port (format E)? (R61, R64) -/
def Instr.isCommand : Instr → Bool
  | .nop => true
  | .snapshot => true
  | .consumeChanged => true
  | .rotUpdate => true
  | .rotCw => true
  | .rotPress => true
  | .snzUpdate => true
  | .snzPress => true
  | .reserved _ => true
  | .capture _ => false

end Sys2Proof
end

