-- ==== Sys2Proof/Decode.lean ====
section
/-! DEFINITION. From the words on the two ports to instructions, total, and back (30_encoding.md R61 to R64, R68), for a
block with the given parameters. -/

namespace Sys2Proof

/-- A word on one of the two input ports: an opcode on the command port (format C, R61) or the bundle of the capture port
(format E, R64). The ports are separate, so the same bits may stand on both (R64). -/
inductive PortWord (c : Config) where
  | command (op : Opcode c)
  | bundle (b : Bundle c)
deriving DecidableEq, Repr

/-- Why a word stands for no instruction. -/
inductive DecodeError (c : Config) where
  /-- A bundle with `cap_strobe = 0` "is no event, whatever `cap_pins` holds" (R64). -/
  | noEvent (b : Bundle c)
  /-- A number of the opcode table's kind that no row has: no port carries so many bits. -/
  | noPort (w : Nat)
deriving DecidableEq, Repr

/-- A tracker's command where the tracker is built, and a reserved opcode where it is not (00_scope.md R6; log entry 15). -/
def trackerCommand (c : Config) (t : TrackerId) (op : Opcode c) (i : Instr) : Instr :=
  if t.built c then i else .reserved ⟨c.opcodeWidth, op⟩

/-- The opcode map of R62. It is total: "Every 4-bit value is either a defined command or reserved" (R63). -/
def decodeCommand (c : Config) (op : Opcode c) : Instr :=
  match op.toNat with
  | 0 => .nop
  | 1 => .snapshot
  | 2 => .consumeChanged
  | 3 => trackerCommand c .rot op .rotUpdate
  | 4 => trackerCommand c .rot op .rotCw
  | 5 => trackerCommand c .rot op .rotPress
  | 6 => trackerCommand c .snz op .snzUpdate
  | 7 => trackerCommand c .snz op .snzPress
  | _ => .reserved ⟨c.opcodeWidth, op⟩

/-- Format E, `1dcba`: `cap_strobe` is the bit above `cap_pins`, bit 4 by default, and `cap_pins` the bits below it (R64). -/
def decodeBundle (c : Config) (b : Bundle c) : Except (DecodeError c) Instr :=
  if b.getLsbD c.nLevels then .ok (.capture ⟨c.nLevels, b.extractLsb' 0 c.nLevels⟩) else .error (.noEvent b)

/-- The instruction a port's word stands for. -/
def decode (c : Config) : PortWord c → Except (DecodeError c) Instr
  | .command op => .ok (decodeCommand c op)
  | .bundle b => decodeBundle c b

/-- The capture port's bundle, from the two input ports that make it up (R64). -/
def bundleOf (c : Config) (strobe : Bool) (pins : Levels c) : Bundle c := BitVec.ofBool strobe ++ pins

/-- The command word with the given opcode number. -/
def commandWord (c : Config) (op : Nat) : PortWord c := .command (BitVec.ofNat c.opcodeWidth op)

/-- The word of an instruction, from the tables of R62 and R64. -/
def encode (c : Config) : Instr → PortWord c
  | .nop => commandWord c 0x0
  | .snapshot => commandWord c 0x1
  | .consumeChanged => commandWord c 0x2
  | .rotUpdate => commandWord c 0x3
  | .rotCw => commandWord c 0x4
  | .rotPress => commandWord c 0x5
  | .snzUpdate => commandWord c 0x6
  | .snzPress => commandWord c 0x7
  | .reserved op => .command (op.value.setWidth c.opcodeWidth)
  | .capture pins => .bundle (bundleOf c true (pins.value.setWidth c.nLevels))

/-- The port a number of spec/opcode_table.json stands on: the table gives format C four bits and format E five bits,
of which the top one, bit 4, is 1 (log entry 8). At other widths: OPCODE_WIDTH bits, and one bit more than N_LEVELS. -/
def portWordOfTable (c : Config) (w : Nat) : Except (DecodeError c) (PortWord c) :=
  if w < 2 ^ c.opcodeWidth then .ok (.command (BitVec.ofNat c.opcodeWidth w))
  else if w < 2 ^ (1 + c.nLevels) then .ok (.bundle (BitVec.ofNat (1 + c.nLevels) w))
  else .error (.noPort w)

/-- The number spec/opcode_table.json gives a port's word. -/
def tableWordOf (c : Config) : PortWord c → Nat
  | .command op => op.toNat
  | .bundle b => b.toNat

/-- Decode a number of the opcode table, rejecting by name. -/
def decodeTable (c : Config) (w : Nat) : Except (DecodeError c) Instr :=
  match portWordOfTable c w with
  | .ok p => decode c p
  | .error e => .error e

/-- The instruction the decoder reads from the low `nbits` bits of `w`, numbered as spec/opcode_table.json numbers them,
which is at the default parameters of R6. -/
def decodeTableWord (nbits w : Nat) : Option Instr :=
  match decodeTable Config.default (w % 2 ^ nbits) with
  | .ok i => some i
  | .error _ => none

end Sys2Proof
end

