-- ==== Sys2Proof/Machine/State.lean ====
section
/-! DEFINITION. The block's state as plain data (10_state.md R20), why a step can stop, and the state after reset (R31). -/

namespace Sys2Proof.Machine

/-- One tracker's record (R20, R23, R24). -/
structure Tracker (c : Config) where
  /-- previousLevels: all the bits of `S.L` at the tracker's most recent UPDATE (R23). -/
  prev : Levels c
  /-- relevantChange: 0 is Idle and 1 is ChangedUnconsumed (R24, R25). -/
  rc : Bool
deriving DecidableEq, Repr

/-- The state the spec gives a block with the parameters `c`: the fields of R20, at the widths and with the number of
trackers the parameters fix (00_scope.md R6; log entries 4 and 15). -/
structure Block (c : Config) where
  /-- `S.L`: the levels of the most recent capture, uninverted (R21). -/
  L : Levels c
  /-- `S.CF`: the sticky ChangedFlag (R22). -/
  CF : Bool
  /-- The N_TRACKERS trackers' records, `S.ROT` first and `S.SNZ` second (R23, R24). -/
  trackers : Vector (Tracker c) c.nTrackers
  /-- `S.resp_valid` (R26). -/
  respValid : Bool
  /-- `S.resp_data` (R26). -/
  respData : RespData c
  /-- `S.resp_err` (R26). -/
  respErr : Bool
deriving DecidableEq, Repr

/-- The state of the machine: the build-time parameters, the block with these parameters, and two fields of the MODEL's
own that carry the inputs of the steps to come. -/
structure State where
  /-- The eight parameters of R6: constant for the life of the block (R33; log entry 1). -/
  cfg : Config
  /-- The block's state (R20). -/
  block : Block cfg
  /-- The model's own: the inputs of the next steps, oldest first (R33; log entry 2). -/
  pending : List (Inputs cfg)
  /-- The model's own: how many steps had no listed inputs so far (log entry 3). -/
  draws : Nat
deriving DecidableEq, Repr

/-- Why a step can fault: nothing. "The block raises no exception and has no trap mechanism. No command can fail"
(60_exceptions.md R150). -/
inductive Fault where
deriving DecidableEq, Repr

/-- Why a step can be refused. -/
inductive Refusal where
  /-- Raised by an arm of `exec` whose instruction has no meaning yet; safe. No arm of this model raises it. -/
  | notModelled (mnemonic : String)
deriving DecidableEq, Repr

/-- The state right after reset (R31), with the parameters at the defaults of R6 and no inputs listed. -/
def State.reset : State :=
  { cfg := Config.default
    block :=
      { L := 0b0000#4
        CF := false
        trackers := #v[{ prev := 0b0000#4, rc := false }, { prev := 0b0000#4, rc := false }]
        respValid := false
        respData := 0b0000#4
        respErr := false }
    pending := []
    draws := 0 }

end Sys2Proof.Machine
end

