-- ==== Sys2Proof/Machine/Operands.lean ====
section
/-! DEFINITION. Reading level vectors: which bit is which line, what "pressed" and the phase test are, the watch masks,
and the widths of a response's data (00_scope.md R6, R7; 10_state.md R21; 30_encoding.md R67; 41_debounce_trackers.md R100,
R101). Each takes the parameters of R6 as an argument. -/

namespace Sys2Proof.Machine

/-- The bit of a line under a LEVEL bit assignment (R6, R21). -/
def lineBit {n : Nat} (b : LineBits n) : Line → Fin n
  | .rotaryA => b.rotaryA
  | .rotaryB => b.rotaryB
  | .rotaryButton => b.rotaryButton
  | .snoozeButton => b.snoozeButton

/-- The electrical level of one line in a level vector: 1 is high (R21). -/
def level (c : Config) (v : Levels c) (l : Line) : Bool := v.getLsbD (lineBit c.lines l)

/-- "A button is pressed when its stored level is 0": active-low, inverted at the point of interpretation (R100). -/
def pressed (lvl : Bool) : Bool := !lvl

/-- The quadrature-phase heuristic "A level ≠ B level" (R100): `v[0] ^ v[1]` under the default assignment. -/
def phase (c : Config) (v : Levels c) : Bool := level c v .rotaryA ^^ level c v .rotaryB

/-- The rotary button is pressed in `v` (R100, R106): `~v[2]` under the default assignment. -/
def rotaryPressed (c : Config) (v : Levels c) : Bool := pressed (level c v .rotaryButton)

/-- The snooze button is pressed in `v` (R100, R108): `~v[3]` under the default assignment. -/
def snoozePressed (c : Config) (v : Levels c) : Bool := pressed (level c v .snoozeButton)

/-- The watch mask W_t of a tracker (R101). -/
def watchMask (c : Config) : TrackerId → Levels c
  | .rot => c.rotWatch
  | .snz => c.snzWatch

/-- `zext_4(b)`: a one-bit value widened to RESP_WIDTH bits, by default four, the bits above bit 0 zero (R7, R67). -/
def zext (c : Config) (b : Bool) : RespData c := (BitVec.ofBool b).setWidth c.respWidth

/-- SNAPSHOT's data for the given levels: bit i of the data is the level's bit i (R67), the bits above them zero; free
where RESP_WIDTH has no room for N_LEVELS bits (log entry 14). -/
def snapshotData (c : Config) (v : Levels c) : RespData c :=
  if c.nLevels ≤ c.respWidth then v.setWidth c.respWidth else Config.narrowSnapshot c v

/-- A level vector with bit `i` holding `x` and every other bit 0. -/
def oneBit {n : Nat} (i : Fin n) (x : Bool) : BitVec n := (BitVec.ofBool x).setWidth n <<< i.val

/-- The level vector of a burst whose lines carry the levels `f`, when the wiring is as the precondition of
40_input_capture.md R86 demands: each line on the bit that is assigned to it. -/
def pinsOf (c : Config) (f : Line → Bool) : Levels c :=
  oneBit c.lines.rotaryA (f .rotaryA) ||| oneBit c.lines.rotaryB (f .rotaryB) |||
    oneBit c.lines.rotaryButton (f .rotaryButton) ||| oneBit c.lines.snoozeButton (f .snoozeButton)

end Sys2Proof.Machine
end

