-- ==== Sys2Proof/Machine/Flags.lean ====
section
/-! DEFINITION. The flag computations: a tracker's relevantChange, and a query's single-shot answer
(41_debounce_trackers.md R101, R102, R103). -/

namespace Sys2Proof.Machine

variable {c : Config}

/-- The "levels actually differ" test of R101: `(snap & W) != (prev & W)`. -/
def watchedDiffer (w snap prev : Levels c) : Bool := (snap &&& w) != (prev &&& w)

/-- relevantChange (R103): the consumed ChangedFlag and the watched bits differ. -/
def relevantChange (flag : Bool) (w snap prev : Levels c) : Bool := flag && watchedDiffer w snap prev

/-- A query's answer (R102): relevantChange and the query's test of the tracker's previous levels. -/
def singleShot (k : Tracker c) (test : Levels c → Bool) : Bool := k.rc && test k.prev

end Sys2Proof.Machine
end

