-- ==== Sys2Proof/Machine/Ops.lean ====
section
/-! DEFINITION. The named operations over the state: responses, the ChangedFlag, captures, the trackers, reset, and the
inputs of a step. There is no operation that takes an exception: "Trap entry, return, nesting and delegation do not
exist" (60_exceptions.md R150, R154). -/

namespace Sys2Proof.Machine

namespace Block

variable {c : Config}

/-! ### Responses -/

/-- `resp(d, e)`: the response of a command (30_encoding.md R66, 00_scope.md R8). -/
def respond (s : Block c) (d : RespData c) (e : Bool) : Block c := { s with respValid := true, respData := d, respErr := e }

/-- The response registers after a step with no command: all zero (10_state.md R26, 42_control.md R142). -/
def noResponse (s : Block c) : Block c := { s with respValid := false, respData := 0#c.respWidth, respErr := false }

/-- The output ports show the response registers of the state (30_encoding.md R60). -/
def outputs (s : Block c) : Outputs c := { respValid := s.respValid, respData := s.respData, respErr := s.respErr }

/-! ### Input capture -/

/-- Capture (40_input_capture.md R80): all the levels at once, no inversion, and the ChangedFlag is set. It writes no
tracker field and no response field. -/
def capture (s : Block c) (pins : Levels c) : Block c := { s with L := pins, CF := true }

/-- The test-and-clear of the ChangedFlag (20_memory.md R47, 40_input_capture.md R82): what it held, and the state with
the flag cleared. -/
def consumeFlag (s : Block c) : Bool × Block c := (s.CF, { s with CF := false })

/-! ### Trackers -/

/-- The record `S.t`. A tracker that is not built reads as reset leaves a tracker; no decoded command reads it (log
entry 15). -/
def tracker (s : Block c) (t : TrackerId) : Tracker c :=
  (s.trackers[t.index]?).getD { prev := c.resetLevels, rc := false }

/-- Write the record `S.t`, where the tracker is built. -/
def setTracker (s : Block c) (t : TrackerId) (k : Tracker c) : Block c :=
  { s with trackers := s.trackers.setIfInBounds t.index k }

/-- `Update(t)` (41_debounce_trackers.md R103): one indivisible step that snapshots the levels, tests and clears the
ChangedFlag, computes relevantChange from the tracker's previous levels, and stores the snapshot. -/
def update (s : Block c) (t : TrackerId) : Block c :=
  let snap := s.L
  let flag := s.consumeFlag
  let k : Tracker c := { prev := snap, rc := relevantChange flag.1 (watchMask c t) snap (s.tracker t).prev }
  (flag.2.setTracker t k).respond 0#c.respWidth false

/-- A single-shot query of tracker `t` (R102): the answer is computed from `S.t.rc` and `S.t.prev`, and `S.t.rc` is
cleared whatever the answer was. -/
def query (s : Block c) (t : TrackerId) (test : Levels c → Bool) : Block c :=
  let k := s.tracker t
  (s.setTracker t { k with rc := false }).respond (zext c (singleShot k test)) false

/-! ### Reset -/

/-- `ResetState` (70_reset_and_hazards.md R170): every field of R20 at its value of 10_state.md R31. -/
def resetState (c : Config) : Block c :=
  { L := c.resetLevels
    CF := false
    trackers := Vector.replicate c.nTrackers { prev := c.resetLevels, rc := false }
    respValid := false
    respData := 0#c.respWidth
    respErr := false }

end Block

/-! ### The inputs of a step -/

/-- The inputs of the step about to happen: the oldest listed ones, and where none are listed a free draw (00_scope.md
R12; log entries 2 and 3). -/
def State.nextInputs (s : State) : Inputs s.cfg :=
  match s.pending with
  | [] => Config.freeInputs s.cfg s.draws
  | inp :: _ => inp

/-- How many free draws there were once these inputs are taken (log entry 3). -/
def State.nextDraws (s : State) : Nat :=
  match s.pending with
  | [] => s.draws + 1
  | _ :: _ => s.draws

/-- The state once these inputs are taken. -/
def State.takeInputs (s : State) : State := { s with pending := s.pending.tail, draws := s.nextDraws }

/-- List `inp` as the inputs of the very next step. -/
def State.present (s : State) (inp : Inputs s.cfg) : State := { s with pending := inp :: s.pending }

/-- The inputs of a step that presents one word and nothing else: a command with no capture, or a capture with no
command (30_encoding.md R61, R64). -/
def inputsOfWord {c : Config} : PortWord c → Inputs c
  | .command op => { rst := false, cmdValid := true, cmdOp := op, capStrobe := false, capPins := 0#c.nLevels }
  | .bundle b =>
    { rst := false
      cmdValid := false
      cmdOp := 0#c.opcodeWidth
      capStrobe := b.getLsbD c.nLevels
      capPins := b.extractLsb' 0 c.nLevels }

/-- The inputs of a step that presents the table word `w` (its low `nbits` bits); none where no port carries it. -/
def inputsOfTableWord (c : Config) (nbits w : Nat) : Option (Inputs c) :=
  match portWordOfTable c (w % 2 ^ nbits) with
  | .ok p => some (inputsOfWord p)
  | .error _ => none

end Sys2Proof.Machine
end

