-- ==== Sys2Proof/Machine/Capture.lean ====
section
/-! DEFINITION. The input capture family: SNAPSHOT, CONSUME_CHANGED and the CAPTURE event (40_input_capture.md). -/

namespace Sys2Proof.Machine

/-- SNAPSHOT (R81): `resp(S.L, 0)`; no state changes. -/
def execSnapshot (s : State) : Host.Outcome State Fault Refusal :=
  .next { s with block := s.block.respond (snapshotData s.cfg s.block.L) false }

/-- CONSUME_CHANGED (R82): test and clear the ChangedFlag, answering what it held. -/
def execConsumeChanged (s : State) : Host.Outcome State Fault Refusal :=
  .next { s with block := s.block.consumeFlag.2.respond (zext s.cfg s.block.consumeFlag.1) false }

/-- CAPTURE (R80): the pin-change handler fires. `step` applies it after the step's command (20_memory.md R45). A term
whose width is not the block's is ill formed and reaches no step (log entry 12). -/
def execCapture (pins : Bits) (s : State) : Host.Outcome State Fault Refusal :=
  .next { s with block := s.block.capture (pins.value.setWidth s.cfg.nLevels) }

end Sys2Proof.Machine
end

