-- ==== Sys2Proof/Machine/Control.lean ====
section
/-! DEFINITION. The control family: NOP and the reserved opcodes (42_control.md). -/

namespace Sys2Proof.Machine

/-- NOP (R140): `resp(0b0000, 0)`; no state changes. -/
def execNop (s : State) : Host.Outcome State Fault Refusal :=
  .next { s with block := s.block.respond 0#s.cfg.respWidth false }

/-- A reserved opcode (R141): `resp(0b0000, 1)`; no state changes, no trap, and "the opcode itself is not recorded"
(60_exceptions.md R151). -/
def execReserved (_op : Bits) (s : State) : Host.Outcome State Fault Refusal :=
  .next { s with block := s.block.respond 0#s.cfg.respWidth true }

end Sys2Proof.Machine
end

