-- ==== Sys2Proof/Machine/Trackers.lean ====
section
/-! DEFINITION. The edge/debounce tracker family: ROT_UPDATE, ROT_CW, ROT_PRESS, SNZ_UPDATE, SNZ_PRESS
(41_debounce_trackers.md). -/

namespace Sys2Proof.Machine

/-- ROT_UPDATE (R104): `Update(ROT)`. -/
def execRotUpdate (s : State) : Host.Outcome State Fault Refusal := .next { s with block := s.block.update .rot }

/-- ROT_CW (R105): relevantChange and A ≠ B at the tracker's last UPDATE. -/
def execRotCw (s : State) : Host.Outcome State Fault Refusal := .next { s with block := s.block.query .rot (phase s.cfg) }

/-- ROT_PRESS (R106): relevantChange and the rotary button low at the tracker's last UPDATE. -/
def execRotPress (s : State) : Host.Outcome State Fault Refusal :=
  .next { s with block := s.block.query .rot (rotaryPressed s.cfg) }

/-- SNZ_UPDATE (R107): `Update(SNZ)`. -/
def execSnzUpdate (s : State) : Host.Outcome State Fault Refusal := .next { s with block := s.block.update .snz }

/-- SNZ_PRESS (R108): relevantChange and the snooze button low at the tracker's last UPDATE. -/
def execSnzPress (s : State) : Host.Outcome State Fault Refusal :=
  .next { s with block := s.block.query .snz (snoozePressed s.cfg) }

end Sys2Proof.Machine
end

