-- ==== Sys2Proof/Machine/Dispatch.lean ====
section
/-! DEFINITION. One arm per instruction: `Exec(T, op)` of 20_memory.md R45, and the capture event beside it. -/

namespace Sys2Proof.Machine

def exec (i : Instr) (s : State) : Host.Outcome State Fault Refusal :=
  match i with
  | .nop => Sys2Proof.Machine.execNop s
  | .snapshot => Sys2Proof.Machine.execSnapshot s
  | .consumeChanged => Sys2Proof.Machine.execConsumeChanged s
  | .rotUpdate => Sys2Proof.Machine.execRotUpdate s
  | .rotCw => Sys2Proof.Machine.execRotCw s
  | .rotPress => Sys2Proof.Machine.execRotPress s
  | .snzUpdate => Sys2Proof.Machine.execSnzUpdate s
  | .snzPress => Sys2Proof.Machine.execSnzPress s
  | .reserved op => Sys2Proof.Machine.execReserved op s
  | .capture pins => Sys2Proof.Machine.execCapture pins s

end Sys2Proof.Machine
end

