-- ==== Sys2Proof/Machine/Edge.lean ====
section
/-! DEFINITION. One rising edge of `clk`: `Step(S, in)` of 20_memory.md R45. It stands beside Step.lean, which only
calls it, so that a repair may mend it. `inp` are the inputs on the ports of a block with the parameters `c`, those of the
state `s` (`step` gives it no others). -/

namespace Sys2Proof.Machine

variable {c : Config}

/-- The command half of a step: the decoded command, or the idle step's response (R45, 42_control.md R142). -/
def commandHalf (inp : Inputs c) (s : State) : Host.Outcome State Fault Refusal :=
  match inp.cmdValid with
  | true => exec (decodeCommand c inp.cmdOp) s
  | false => .next { s with block := s.block.noResponse }

/-- The capture half of a step: the event on the capture port, if there is one (R45, 30_encoding.md R64). -/
def captureHalf (inp : Inputs c) (s : State) : Host.Outcome State Fault Refusal :=
  match decodeBundle c (bundleOf c inp.capStrobe inp.capPins) with
  | .ok i => exec i s
  | .error _ => .next s

/-- `Step(S, in)` (R45): reset wins over both; otherwise the command is performed first and the capture is applied to
the state the command left. A capture writes no response field (R80), so the response registers, which R45 writes last,
are written here by the command half (log entry 10). -/
def clockEdge (inp : Inputs c) (s : State) : Host.Outcome State Fault Refusal :=
  match inp.rst with
  | true => .next { s with block := Block.resetState s.cfg }
  | false =>
    match commandHalf inp s with
    | .next t => captureHalf inp t
    | .fault r => .fault r
    | .refused r => .refused r

end Sys2Proof.Machine
end

