-- ==== Sys2Proof/Machine/Step.lean ====
section
/-! DEFINITION. The step of the machine, and the placing of one instruction where the next step takes its inputs. -/

namespace Sys2Proof.Machine

/-- One step: take the step's inputs and perform one clock edge with them (00_scope.md R9, 20_memory.md R45). -/
def step (s : State) : Host.Outcome State Fault Refusal := clockEdge s.nextInputs s.takeInputs

/-- Present the table word `w` on its port in the very next step, and nothing else in that step (log entry 2). -/
def State.withFetchWord (s : State) (nbits w : Nat) : State :=
  match inputsOfTableWord s.cfg nbits w with
  | some inp => s.present inp
  | none => s

end Sys2Proof.Machine
end

