-- ==== Sys2Proof/Machine/Listing.lean ====
section
/-! DEFINITION. The listing syntax in which the spec writes programs, one line per step (30_encoding.md R69):
`<command> [| capture 0bDCBA] [| rst]`. A line is given as its parts between the bars, each part as its words. There are
no pseudo-instructions (R70). The literals are those of R69, at the default widths; a block of other widths takes each as
the number it writes (log entry 16). -/

namespace Sys2Proof.Machine

/-- Mnemonic to opcode (R69). -/
def listingMnemonics : List (String × Nat) :=
  [("nop", 0x0), ("snap", 0x1), ("consume", 0x2), ("rot.update", 0x3), ("rot.cw", 0x4), ("rot.press", 0x5),
    ("snz.update", 0x6), ("snz.press", 0x7)]

/-- The word after `rsv`: "a reserved opcode H, 8 to F" (R69). -/
def listingReserved : List (String × Nat) :=
  [("0x8", 0x8), ("0x9", 0x9), ("0xA", 0xA), ("0xB", 0xB), ("0xC", 0xC), ("0xD", 0xD), ("0xE", 0xE), ("0xF", 0xF)]

/-- The word after `capture`: `0bDCBA`, bit 3 first (00_scope.md R7). -/
def listingPins : List (String × BitVec 4) :=
  [("0b0000", 0b0000#4), ("0b0001", 0b0001#4), ("0b0010", 0b0010#4), ("0b0011", 0b0011#4), ("0b0100", 0b0100#4),
    ("0b0101", 0b0101#4), ("0b0110", 0b0110#4), ("0b0111", 0b0111#4), ("0b1000", 0b1000#4), ("0b1001", 0b1001#4),
    ("0b1010", 0b1010#4), ("0b1011", 0b1011#4), ("0b1100", 0b1100#4), ("0b1101", 0b1101#4), ("0b1110", 0b1110#4),
    ("0b1111", 0b1111#4)]

/-- The command part of a line: `-` is no command, the only one that presents none (R69). -/
def listingCommand : List String → Option (Option Nat)
  | ["-"] => some none
  | ["rsv", h] => (listingReserved.lookup h).map some
  | [m] => (listingMnemonics.lookup m).map some
  | _ => none

/-- The inputs of a step with the given command, capture and reset; a port that carries nothing holds zeros. -/
def inputsOf {c : Config} (command : Option (Opcode c)) (capture : Option (Levels c)) (rst : Bool) : Inputs c :=
  { rst := rst
    cmdValid := command.isSome
    cmdOp := command.getD 0#c.opcodeWidth
    capStrobe := capture.isSome
    capPins := capture.getD 0#c.nLevels }

/-- The inputs of a step as a line of the listing writes them. -/
def writtenInputs (c : Config) (command : Option Nat) (capture : Option (BitVec 4)) (rst : Bool) : Inputs c :=
  inputsOf (command.map (BitVec.ofNat c.opcodeWidth)) (capture.map (BitVec.setWidth c.nLevels)) rst

/-- The inputs a line stands for, or none where it is no line of R69. The spec's own programs also write a reset step
with no command as the one word `rst` (95_test_vectors.md P1 to P4, step 0). -/
def listingLine (c : Config) : List (List String) → Option (Inputs c)
  | [["rst"]] => some (writtenInputs c none none true)
  | [m] => (listingCommand m).map fun op => writtenInputs c op none false
  | [m, ["rst"]] => (listingCommand m).map fun op => writtenInputs c op none true
  | [m, ["capture", p]] =>
    match listingCommand m, listingPins.lookup p with
    | some op, some v => some (writtenInputs c op (some v) false)
    | _, _ => none
  | [m, ["capture", p], ["rst"]] =>
    match listingCommand m, listingPins.lookup p with
    | some op, some v => some (writtenInputs c op (some v) true)
    | _, _ => none
  | _ => none

/-- The inputs of a whole listing, one line per step. -/
def assemble (c : Config) : List (List (List String)) → Option (List (Inputs c))
  | [] => some []
  | line :: rest =>
    match listingLine c line, assemble c rest with
    | some inp, some xs => some (inp :: xs)
    | _, _ => none

end Sys2Proof.Machine
end

