-- ==== Sys2Proof/Safety.lean ====
section
/-! DEFINITION. The terms claims use, for a block with any parameters `c`: what a step's inputs ask for, running the
machine on listed inputs, the invariant every step keeps, and what each field of the state is after a history of inputs. -/

namespace Sys2Proof.Machine

variable {c : Config}

/-! ### What the inputs of one step ask for -/

/-- The command a step performs: none in a reset step or with `cmd_valid = 0` (20_memory.md R45). -/
def command? (inp : Inputs c) : Option Instr :=
  if inp.rst = false ∧ inp.cmdValid = true then some (decodeCommand c inp.cmdOp) else none

/-- The levels a step captures: none in a reset step or with `cap_strobe = 0` (R45). -/
def captured? (inp : Inputs c) : Option (Levels c) := if inp.rst = false ∧ inp.capStrobe = true then some inp.capPins else none

/-- The command that is tracker `t`'s UPDATE. -/
def updateOf : TrackerId → Instr
  | .rot => .rotUpdate
  | .snz => .snzUpdate

/-- The step performs `t`'s UPDATE. -/
def IsUpdate (t : TrackerId) (inp : Inputs c) : Prop := command? inp = some (updateOf t)

/-- The step performs a query of `t`: ROT_CW or ROT_PRESS for ROT, SNZ_PRESS for SNZ (41_debounce_trackers.md R102). -/
def IsQuery (t : TrackerId) (inp : Inputs c) : Prop :=
  match t with
  | .rot => command? inp = some .rotCw ∨ command? inp = some .rotPress
  | .snz => command? inp = some .snzPress

/-- The step polls, and so clears, the ChangedFlag: CONSUME_CHANGED, ROT_UPDATE or SNZ_UPDATE (10_state.md R22). -/
def IsPoll (inp : Inputs c) : Prop := command? inp = some .consumeChanged ∨ IsUpdate .rot inp ∨ IsUpdate .snz inp

/-! ### The parameters -/

/-- The level bit assignment gives each line a bit of its own, as the default does (00_scope.md R6). -/
abbrev DistinctLines (c : Config) : Prop :=
  [c.lines.rotaryA, c.lines.rotaryB, c.lines.rotaryButton, c.lines.snoozeButton].Nodup

/-- The number of a line's bit, by the default assignment of R6: bits 0 to 3 in the order of its table. -/
def defaultBit : Line → Nat
  | .rotaryA => 0
  | .rotaryB => 1
  | .rotaryButton => 2
  | .snoozeButton => 3

/-- Each line is on the bit of the default assignment, whatever the other parameters (00_scope.md R6, 10_state.md R21). -/
abbrev DefaultLines (c : Config) : Prop := ∀ l : Line, (lineBit c.lines l).val = defaultBit l

/-! ### Running the machine on listed inputs -/

/-- `Run xs s t`: from the block state `s`, the machine's steps whose inputs are `xs` end in `t`, with the parameters as
they were, whatever inputs are listed after `xs` (which stay listed) and however many free draws there were. -/
def Run (xs : List (Inputs c)) (s t : Block c) : Prop :=
  ∀ (later : List (Inputs c)) (draws : Nat),
    Host.Core.run Sys2Proof.core xs.length (State.mk c s (xs ++ later) draws) = .next (State.mk c t later draws)

/-- The state with a capture of the same step applied, if there was one (40_input_capture.md R80, 20_memory.md R45). -/
def Block.withCapture (s : Block c) : Option (Levels c) → Block c
  | none => s
  | some pins => { s with L := pins, CF := true }

/-! ### The invariant every step keeps -/

/-- The response registers hold something a step can leave there: without a response all three are zero
(30_encoding.md R66), and an error response carries no data (R67). -/
def Block.RespOk (s : Block c) : Prop :=
  (s.respValid = false → s.respData = 0#c.respWidth ∧ s.respErr = false) ∧ (s.respErr = true → s.respData = 0#c.respWidth)

/-- A tracker whose watch mask is empty compares no bit, so it is Idle (41_debounce_trackers.md R101, R103). -/
def Block.BlindIdle (s : Block c) (t : TrackerId) : Prop := watchMask c t = 0#c.nLevels → (s.tracker t).rc = false

/-- The invariant of the machine. -/
def Block.Inv (s : Block c) : Prop := s.RespOk ∧ s.BlindIdle .rot ∧ s.BlindIdle .snz

/-- A tracker's record as reset leaves it: RESET_LEVELS and Idle (10_state.md R31). -/
def resetTracker (c : Config) : Tracker c := { prev := c.resetLevels, rc := false }

/-- As the block stands after reset and before any capture (70_reset_and_hazards.md R172): nothing has changed. -/
def Block.Quiet (s : Block c) : Prop :=
  s.L = c.resetLevels ∧ s.CF = false ∧ s.tracker .rot = resetTracker c ∧ s.tracker .snz = resetTracker c

/-- With the flag clear, one of the two trackers that have commands holds the current levels in `prev`. -/
def Block.LevelsSeen (s : Block c) : Prop := s.CF = false → s.L = (s.tracker .rot).prev ∨ s.L = (s.tracker .snz).prev

/-! ### Each field after a history of inputs

A history lists the inputs of the steps since a reset, NEWEST FIRST. Each definition below reads the history alone, with
the opcode numbers of 30_encoding.md R62; none of them runs the machine or decodes. -/

/-- The step presents the opcode number `n`, in a block of at least `built` trackers. -/
def presents (n built : Nat) (i : Inputs c) : Bool := i.cmdValid && (i.cmdOp.toNat == n && decide (built ≤ c.nTrackers))

/-- The step presents a tracker's UPDATE (R62). -/
def presentsUpdate (t : TrackerId) (i : Inputs c) : Bool :=
  match t with
  | .rot => presents 0x3 1 i
  | .snz => presents 0x6 2 i

/-- The step presents a query of the tracker (R62, 41_debounce_trackers.md R102). -/
def presentsQuery (t : TrackerId) (i : Inputs c) : Bool :=
  match t with
  | .rot => presents 0x4 1 i || presents 0x5 1 i
  | .snz => presents 0x7 2 i

/-- The step presents a poll of the ChangedFlag: opcode 0x2, 0x3 or 0x6 (10_state.md R22). -/
def presentsPoll (i : Inputs c) : Bool := presents 0x2 0 i || (presents 0x3 1 i || presents 0x6 2 i)

/-- `S.L`: the pins of the latest capture, or RESET_LEVELS if there was none since reset (40_input_capture.md R84). -/
def histLevels : List (Inputs c) → Levels c
  | [] => c.resetLevels
  | i :: h => if i.rst then c.resetLevels else if i.capStrobe then i.capPins else histLevels h

/-- `S.CF`: some capture since reset has not been polled (10_state.md R22, 20_memory.md R49). -/
def histFlag : List (Inputs c) → Bool
  | [] => false
  | i :: h => if i.rst then false else if i.capStrobe then true else if presentsPoll i then false else histFlag h

/-- `S.t.prev`: the levels before the step of the tracker's latest UPDATE (10_state.md R23). -/
def histPrev (t : TrackerId) : List (Inputs c) → Levels c
  | [] => c.resetLevels
  | i :: h => if i.rst then c.resetLevels else if presentsUpdate t i then histLevels h else histPrev t h

/-- `S.t.rc`: the tracker's latest UPDATE found a pending change of its watched bits, and no query came after it
(10_state.md R25). -/
def histChange (t : TrackerId) : List (Inputs c) → Bool
  | [] => false
  | i :: h =>
    if i.rst then false
    else if presentsUpdate t i then
      histFlag h && decide (histLevels h &&& watchMask c t ≠ histPrev t h &&& watchMask c t)
    else if presentsQuery t i then false
    else histChange t h

/-- A one-bit answer as response data: 1 or 0 in bit 0, and every other bit 0 (30_encoding.md R67). -/
def answer (c : Config) (b : Bool) : RespData c := if b then 1#c.respWidth else 0#c.respWidth

/-- The response of a step, from the fields before it: what 30_encoding.md R66 and R67 give it, the opcodes by number. -/
def tabledResponse (i : Inputs c) (L : Levels c) (CF : Bool) (rot snz : Tracker c) : Outputs c :=
  if i.rst || !i.cmdValid then { respValid := false, respData := 0#c.respWidth, respErr := false }
  else
    { respValid := true
      respData :=
        if presents 0x1 0 i then snapshotData c L
        else if presents 0x2 0 i then answer c CF
        else if presents 0x4 1 i then answer c (rot.rc && (rot.prev.getLsbD c.lines.rotaryA != rot.prev.getLsbD c.lines.rotaryB))
        else if presents 0x5 1 i then answer c (rot.rc && !rot.prev.getLsbD c.lines.rotaryButton)
        else if presents 0x7 2 i then answer c (snz.rc && !snz.prev.getLsbD c.lines.snoozeButton)
        else 0#c.respWidth
      respErr := reservedOpcode c i.cmdOp.toNat }

/-- The response registers after a history. -/
def histOutputs : List (Inputs c) → Outputs c
  | [] => { respValid := false, respData := 0#c.respWidth, respErr := false }
  | i :: h =>
    tabledResponse i (histLevels h) (histFlag h) { prev := histPrev .rot h, rc := histChange .rot h }
      { prev := histPrev .snz h, rc := histChange .snz h }

/-- Every field of the block's state is what the history (newest first) says it is. A tracker beyond ROT and SNZ has no
command, so it stays as reset left it (log entry 15). -/
structure Explained (h : List (Inputs c)) (s : Block c) : Prop where
  levels : s.L = histLevels h
  flag : s.CF = histFlag h
  rot : s.tracker .rot = { prev := histPrev .rot h, rc := histChange .rot h }
  snz : s.tracker .snz = { prev := histPrev .snz h, rc := histChange .snz h }
  others : ∀ (k : Nat) (hk : k < c.nTrackers), 2 ≤ k → s.trackers[k] = resetTracker c
  outputs : s.outputs = histOutputs h

/-! ### Two runs that differ only in the snooze line -/

/-- Two level vectors agree on every bit but the snooze button's. -/
def AgreeButSnooze (c : Config) (v w : Levels c) : Prop :=
  ∀ i : Fin c.nLevels, i ≠ c.lines.snoozeButton → v.getLsbD i = w.getLsbD i

/-- The inputs of two steps that differ at most in the snooze level of their captures. -/
def InputsButSnooze (x y : Inputs c) : Prop :=
  x.rst = y.rst ∧ x.cmdValid = y.cmdValid ∧ x.cmdOp = y.cmdOp ∧ x.capStrobe = y.capStrobe ∧ AgreeButSnooze c x.capPins y.capPins

/-- Two states that agree, the snooze level aside, on all that the rotary tracker and its queries read. -/
structure RotaryAgree (s t : Block c) : Prop where
  levels : AgreeButSnooze c s.L t.L
  flag : s.CF = t.CF
  prev : AgreeButSnooze c (s.tracker .rot).prev (t.tracker .rot).prev
  change : (s.tracker .rot).rc = (t.tracker .rot).rc

end Sys2Proof.Machine
end

