-- ==== Sys2Proof/Certificates/Slice0/Obligations.lean ====
section
/-! DEFINITION. The statements for the provers. Each is about a block with any parameters `c` (00_scope.md R6), unless it
names `Config.default`. `Run xs s t` says that from `s` the machine's steps with the inputs `xs` end in `t`; `inputsOf o p r`
are the inputs of a step with the opcode `o`, the capture `p` and the reset `r`, each optional; `answer c b` is `b` in bit 0
of a response's data. A step with a command is named by what its opcode decodes to, so that a statement holds at every
OPCODE_WIDTH. -/

open Sys2Proof Sys2Proof.Machine

/-! ### Encoding -/

/-- R62, with R63's reserved half: the opcode map, the 4-bit words written out. -/
def Obligations.OpcodeMapIsAsTheTableSays : Prop :=
  decodeCommand Config.default 0b0000#4 = .nop ∧ decodeCommand Config.default 0b0001#4 = .snapshot ∧
  decodeCommand Config.default 0b0010#4 = .consumeChanged ∧ decodeCommand Config.default 0b0011#4 = .rotUpdate ∧
  decodeCommand Config.default 0b0100#4 = .rotCw ∧ decodeCommand Config.default 0b0101#4 = .rotPress ∧
  decodeCommand Config.default 0b0110#4 = .snzUpdate ∧ decodeCommand Config.default 0b0111#4 = .snzPress ∧
  ∀ op : Opcode Config.default, (op.getLsbD 3 = true → decodeCommand Config.default op = .reserved ⟨4, op⟩) ∧
    (op.getLsbD 3 = false → ∀ r, decodeCommand Config.default op ≠ .reserved r)

/-- The opcode map of R62 at every OPCODE_WIDTH and for every N_TRACKERS (R6). That a number above 0xF is reserved is read
by inference, log entry 4, and that the opcodes of a tracker that is not built are reserved is the model's choice, log entry 15. -/
def Obligations.OpcodeMapHoldsAtEveryWidth : Prop :=
  ∀ (c : Config) (op : Opcode c),
    (op.toNat = 0x0 → decodeCommand c op = .nop) ∧ (op.toNat = 0x1 → decodeCommand c op = .snapshot) ∧
    (op.toNat = 0x2 → decodeCommand c op = .consumeChanged) ∧
    (1 ≤ c.nTrackers →
      (op.toNat = 0x3 → decodeCommand c op = .rotUpdate) ∧ (op.toNat = 0x4 → decodeCommand c op = .rotCw) ∧
      (op.toNat = 0x5 → decodeCommand c op = .rotPress)) ∧
    (2 ≤ c.nTrackers → (op.toNat = 0x6 → decodeCommand c op = .snzUpdate) ∧ (op.toNat = 0x7 → decodeCommand c op = .snzPress)) ∧
    (0x8 ≤ op.toNat ∨ (c.nTrackers < 1 ∧ 0x3 ≤ op.toNat ∧ op.toNat ≤ 0x5) ∨ (c.nTrackers < 2 ∧ 0x6 ≤ op.toNat ∧ op.toNat ≤ 0x7) →
      decodeCommand c op = .reserved ⟨c.opcodeWidth, op⟩)

/-- R64: the capture bundle `1dcba`, bit by bit and, under the default assignment of R6, line by line, and that a bundle
without the strobe is no event. The strobe is the bit above the levels: bit 4 by default. -/
def Obligations.CaptureBundleCarriesTheFourLevels : Prop :=
  ∀ (c : Config) (b : Bundle c),
    (b.getLsbD c.nLevels = true → ∃ pins : Levels c, decode c (.bundle b) = .ok (.capture ⟨c.nLevels, pins⟩) ∧
      (∀ i, i < c.nLevels → pins.getLsbD i = b.getLsbD i) ∧
      (DefaultLines c →
        level c pins .snoozeButton = b.getLsbD 3 ∧ level c pins .rotaryButton = b.getLsbD 2 ∧
        level c pins .rotaryB = b.getLsbD 1 ∧ level c pins .rotaryA = b.getLsbD 0)) ∧
    (b.getLsbD c.nLevels = false → decode c (.bundle b) = .error (.noEvent b))

/-- R62, R63, R64: decoding the word of a well-formed instruction, on its port, gives the instruction back. The other
clauses say the same of the number the opcode table gives that word, at the defaults read in one byte: which numbers stand
for which port (by default below 16 a command word, 16 to 31 a capture bundle) is the model's choice, log entry 8, and no
rule of the spec. -/
def Obligations.DecodeOfEncodeIsTheInstruction : Prop :=
  (∀ (c : Config) (i : Instr), i.wellFormed c = true →
    decode c (encode c i) = .ok i ∧ (c.opcodeWidth ≤ c.nLevels → decodeTable c (tableWordOf c (encode c i)) = .ok i)) ∧
  ∀ i : Instr, i.wellFormed Config.default = true →
    decodeTableWord 8 (tableWordOf Config.default (encode Config.default i)) = some i

/-- R62, R63, R64: each word that decodes is the word of the one instruction it decodes to, which is well formed. -/
def Obligations.EncodeOfDecodeIsTheWord : Prop :=
  ∀ (c : Config) (p : PortWord c) (i : Instr), decode c p = .ok i → i.wellFormed c = true ∧ encode c i = p

/-- R69: the mnemonics of the listing syntax, every reserved word, the absent command, and each form of a line with every
command and every capture. That a line may be the one word `rst` is read from the spec's own programs (log entry 11), and
that a block of other widths takes a literal as the number it writes is the model's choice (log entry 16). -/
def Obligations.ListingLinesStandForTheirInputs : Prop :=
  (∀ p ∈ ([("nop", 0x0), ("snap", 0x1), ("consume", 0x2), ("rot.update", 0x3), ("rot.cw", 0x4), ("rot.press", 0x5),
      ("snz.update", 0x6), ("snz.press", 0x7)] : List (String × Nat)), listingCommand [p.1] = some (some p.2)) ∧
  (∀ p ∈ ([("0x8", 0x8), ("0x9", 0x9), ("0xA", 0xA), ("0xB", 0xB), ("0xC", 0xC), ("0xD", 0xD), ("0xE", 0xE),
      ("0xF", 0xF)] : List (String × Nat)), listingCommand ["rsv", p.1] = some (some p.2)) ∧
  listingCommand ["-"] = some none ∧
  ∀ c : Config, listingLine c [["rst"]] = some (inputsOf none none true) ∧
    ∀ (m : List String) (n : Option Nat), listingCommand m = some n →
      let op : Option (Opcode c) := n.map (BitVec.ofNat c.opcodeWidth)
      listingLine c [m] = some (inputsOf op none false) ∧
      listingLine c [m, ["rst"]] = some (inputsOf op none true) ∧
      ∀ v : BitVec 4,
        let digit : Nat → Char := fun i => if v.getLsbD i then '1' else '0'
        let word : String := String.ofList ['0', 'b', digit 3, digit 2, digit 1, digit 0]
        listingLine c [m, ["capture", word]] = some (inputsOf op (some (v.setWidth c.nLevels)) false) ∧
        listingLine c [m, ["capture", word], ["rst"]] = some (inputsOf op (some (v.setWidth c.nLevels)) true)

/-! ### One step -/

/-- R45: `Step(S, in)`. With `inp` the inputs of the step: reset wins over both; otherwise the decoded command is
performed (or, with none, the response registers are zeroed), and then the capture is applied to what it left. -/
def Obligations.StepPerformsCommandThenCapture : Prop :=
  ∀ (c : Config) (S : Block c) (inp : Inputs c) (rest : List (Inputs c)) (n : Nat),
    let s : State := { cfg := c, block := S, pending := inp :: rest, draws := n }
    let next : Block c → State := fun T => { cfg := c, block := T, pending := rest, draws := n }
    (inp.rst = true → step s = .next (next (Block.resetState c))) ∧
    (inp.rst = false → inp.cmdValid = true →
      ∃ T : Block c, exec (decodeCommand c inp.cmdOp) (next S) = .next (next T) ∧ T.respValid = true ∧
        step s = .next (next (T.withCapture (captured? inp)))) ∧
    (inp.rst = false → inp.cmdValid = false →
      step s = .next (next
        (({ S with respValid := false, respData := 0#c.respWidth, respErr := false } : Block c).withCapture (captured? inp))))

/-- The model's choice (log entry 3; 00_scope.md R12, 93_implementation_defined.md I5): with no inputs listed, a step is
the step on a free draw. -/
def Obligations.StepWithoutListedInputsTakesAFreeDraw : Prop :=
  ∀ (c : Config) (S : Block c) (n : Nat),
    step { cfg := c, block := S, pending := [], draws := n } =
      step { cfg := c, block := S, pending := [Config.freeInputs c n], draws := n + 1 }

/-- The model's placing of one word (log entry 2): the next step runs exactly the instruction the word decodes to, an
event being accompanied by no command. -/
def Obligations.PresentedWordIsTheNextInstruction : Prop :=
  ∀ (s : State) (nbits w : Nat) (i : Instr),
    decodeTable s.cfg (w % 2 ^ nbits) = .ok i ∨ (s.cfg = Config.default ∧ decodeTableWord nbits w = some i) →
    step (s.withFetchWord nbits w) = exec i (if i.isCommand then s else { s with block := s.block.noResponse })

/-- R150, R181: every step answers a next state; nothing faults, stalls or is refused. -/
def Obligations.EveryStepCompletes : Prop :=
  ∀ s : State, ∃ t : State, step s = .next t

/-- R150, R151: every command completes in its step with a response, and the response is an error just where the opcode was
reserved. -/
def Obligations.EveryCommandCompletesWithAResponse : Prop :=
  ∀ (i : Instr) (s : State), i.isCommand = true →
    ∃ T : Block s.cfg, exec i s = .next { s with block := T } ∧ T.respValid = true ∧ (T.respErr = true ↔ ∃ op, i = .reserved op)

/-- R12, R61, R181: any sequence of commands, captures and resets, with any pins, is accepted from any state, one step
for each of its inputs, and ends in one state. -/
def Obligations.EveryInputSequenceIsAccepted : Prop :=
  ∀ (c : Config) (xs : List (Inputs c)) (s : Block c), ∃ t : Block c, Run xs s t ∧ ∀ u, Run xs s u → u = t

/-- R46: one total order. Running two sequences one after the other is running the first and then the second. -/
def Obligations.RunsCompose : Prop :=
  ∀ (c : Config) (xs ys : List (Inputs c)) (s u : Block c), Run (xs ++ ys) s u ↔ ∃ t, Run xs s t ∧ Run ys t u

/-- R33, R29: a step writes the block's state alone: all eight parameters are constant. It uses up the inputs it took (this
the model's own, log entries 2 and 3). -/
def Obligations.ParametersAreConstantAndInputsAreUsedUp : Prop :=
  ∀ s t : State, step s = .next t →
    t.cfg = s.cfg ∧ ∃ T : Block s.cfg, t =
      { cfg := s.cfg, block := T, pending := s.pending.tail, draws := s.draws + (if s.pending = [] then 1 else 0) }

/-! ### The control family -/

/-- R140: NOP answers `resp(0b0000, 0)` and leaves every other field as it was; a capture in the same step is applied as
usual; an idle step differs only in `resp_valid`. -/
def Obligations.NopOnlyAnswers : Prop :=
  decodeCommand Config.default 0x0#4 = .nop ∧
  ∀ (s : State) (cap : Option (Levels s.cfg)),
    let S : Block s.cfg := s.block
    let T : Block s.cfg := { S with respValid := true, respData := 0#s.cfg.respWidth, respErr := false }
    exec .nop s = .next { s with block := T } ∧
    ∀ op : Opcode s.cfg, decodeCommand s.cfg op = .nop →
      Run [inputsOf (some op) cap false] S (T.withCapture cap) ∧
      ∀ t, Run [inputsOf (some op) cap false] S t → Run [inputsOf none cap false] S { t with respValid := false }

/-- R141: a reserved opcode answers `resp(0b0000, 1)` and changes nothing else, whichever of the eight it is; a capture in
the same step is applied as usual; the step after it ends as if it had not been presented. -/
def Obligations.ReservedOpcodesOnlyAnswerAnError : Prop :=
  (∀ op : Opcode Config.default, op.getLsbD 3 = true → decodeCommand Config.default op = .reserved ⟨4, op⟩) ∧
  ∀ (s : State) (cap : Option (Levels s.cfg)),
    let S : Block s.cfg := s.block
    let T : Block s.cfg := { S with respValid := true, respData := 0#s.cfg.respWidth, respErr := true }
    (∀ op : Bits, exec (.reserved op) s = .next { s with block := T }) ∧
    ∀ op : Opcode s.cfg, (∃ r, decodeCommand s.cfg op = .reserved r) →
      Run [inputsOf (some op) cap false] S (T.withCapture cap) ∧
      ∀ (later : Inputs s.cfg) (t : Block s.cfg), Run [inputsOf (some op) none false, later] S t → Run [later] S t

/-- R142: an idle step zeroes the response registers and changes nothing else, whatever `cmd_op` holds; a capture in the
same step is applied as usual. -/
def Obligations.IdleStepOnlyClearsTheResponse : Prop :=
  ∀ (c : Config) (s : Block c) (op : Opcode c) (strobe : Bool) (pins : Levels c),
    Run [{ rst := false, cmdValid := false, cmdOp := op, capStrobe := strobe, capPins := pins }] s
      { s with
        respValid := false
        respData := 0#c.respWidth
        respErr := false
        L := if strobe then pins else s.L
        CF := strobe || s.CF }

/-! ### The input capture family -/

/-- R80: a capture writes all the levels uninverted and sets the flag whatever it held, and nothing else: beside any
command, it adds exactly these two writes to what the command leaves. Two captures leave the last one's pins. In a reset
step it is discarded. -/
def Obligations.CaptureWritesLevelsAndSetsTheFlag : Prop :=
  ∀ (s : State) (pins : Levels s.cfg) (op : Option (Opcode s.cfg)),
    let S : Block s.cfg := s.block
    exec (.capture ⟨s.cfg.nLevels, pins⟩) s = .next { s with block := { S with L := pins, CF := true } } ∧
    (∀ t, Run [inputsOf op none false] S t → Run [inputsOf op (some pins) false] S { t with L := pins, CF := true }) ∧
    (∀ (first : Levels s.cfg) (t : Block s.cfg), Run [inputsOf none (some first) false, inputsOf none (some pins) false] S t →
      t.L = pins ∧ t.CF = true) ∧
    Run [inputsOf op (some pins) true] S (Block.resetState s.cfg)

/-- R81: SNAPSHOT answers `S.L` before any capture of the same step and changes no state; repeated without a capture it
answers the same; after a reset and before any capture, whatever else is issued, it answers RESET_LEVELS. At widths other
than the defaults the data is the model's: in a response wider than the levels the bits above them are zero (log entry 4),
and in a narrower one, of which the spec states no data, it is free (log entry 14). -/
def Obligations.SnapshotAnswersTheLevels : Prop :=
  decodeCommand Config.default 0x1#4 = .snapshot ∧ (∀ v : Levels Config.default, snapshotData Config.default v = v) ∧
  ∀ (s : State) (cap : Option (Levels s.cfg)),
    let S : Block s.cfg := s.block
    let T : Block s.cfg := { S with respValid := true, respData := snapshotData s.cfg S.L, respErr := false }
    (s.cfg.nLevels ≤ s.cfg.respWidth → ∀ i, T.respData.getLsbD i = S.L.getLsbD i) ∧
    exec .snapshot s = .next { s with block := T } ∧
    (∀ op : Opcode s.cfg, decodeCommand s.cfg op = .snapshot →
      Run [inputsOf (some op) cap false] S (T.withCapture cap) ∧
      ∀ n : Nat, Run (List.replicate (n + 1) (inputsOf (some op) none false)) S T) ∧
    ∀ (xs : List (Inputs s.cfg)) (t : Block s.cfg), (∀ i ∈ xs, captured? i = none) → Run xs (Block.resetState s.cfg) t →
      t.L = s.cfg.resetLevels ∧ exec .snapshot { s with block := t } =
        .next { s with block := { t with respValid := true, respData := snapshotData s.cfg s.cfg.resetLevels, respErr := false } }

/-- R82: CONSUME_CHANGED answers what the flag held and clears it; a capture in the same step sets it again; called twice
with no capture between, it answers true then false after a capture and never true twice; issued before an UPDATE, it
leaves that UPDATE with `rc = 0`. -/
def Obligations.ConsumeChangedTestsAndClears : Prop :=
  decodeCommand Config.default 0x2#4 = .consumeChanged ∧
  ∀ (s : State) (cap : Option (Levels s.cfg)),
    let S : Block s.cfg := s.block
    let T : Block s.cfg := { S with CF := false, respValid := true, respData := answer s.cfg S.CF, respErr := false }
    exec .consumeChanged s = .next { s with block := T } ∧
    ∀ op : Opcode s.cfg, decodeCommand s.cfg op = .consumeChanged →
      Run [inputsOf (some op) cap false] S (T.withCapture cap) ∧
      (∀ pins t, Run [inputsOf none (some pins) false, inputsOf (some op) none false] S t → t.respData = answer s.cfg true) ∧
      (∀ t, Run [inputsOf (some op) none false, inputsOf (some op) none false] S t → t.respData = answer s.cfg false) ∧
      (∀ pins t, Run [inputsOf (some op) (some pins) false, inputsOf (some op) none false] S t →
        t.respData = answer s.cfg true) ∧
      ∀ (tr : TrackerId) (upd : Opcode s.cfg) (t : Block s.cfg), decodeCommand s.cfg upd = updateOf tr →
        Run [inputsOf (some op) none false, inputsOf (some upd) none false] S t → (t.tracker tr).rc = false

/-! ### The trackers -/

/-- R104: ROT_UPDATE. All right-hand values are those before the step; a capture in the same step is not seen and sets the
flag again; a second ROT_UPDATE with no capture between leaves `rc = 0`. -/
def Obligations.RotUpdateComputesTheRotaryChange : Prop :=
  decodeCommand Config.default 0x3#4 = .rotUpdate ∧
  ∀ (s : State) (cap : Option (Levels s.cfg)),
    let S : Block s.cfg := s.block
    let k : Tracker s.cfg :=
      { prev := S.L, rc := S.CF && decide (S.L &&& s.cfg.rotWatch ≠ (S.tracker .rot).prev &&& s.cfg.rotWatch) }
    let T : Block s.cfg :=
      { S.setTracker .rot k with CF := false, respValid := true, respData := 0#s.cfg.respWidth, respErr := false }
    exec .rotUpdate s = .next { s with block := T } ∧
    ∀ op : Opcode s.cfg, decodeCommand s.cfg op = .rotUpdate →
      T.tracker .rot = k ∧ T.tracker .snz = S.tracker .snz ∧
      Run [inputsOf (some op) cap false] S (T.withCapture cap) ∧
      Run [inputsOf (some op) none false, inputsOf (some op) none false] S (T.setTracker .rot { prev := S.L, rc := false })

/-- R107: SNZ_UPDATE, as ROT_UPDATE with the snooze tracker's mask and record. -/
def Obligations.SnzUpdateComputesTheSnoozeChange : Prop :=
  decodeCommand Config.default 0x6#4 = .snzUpdate ∧
  ∀ (s : State) (cap : Option (Levels s.cfg)),
    let S : Block s.cfg := s.block
    let k : Tracker s.cfg :=
      { prev := S.L, rc := S.CF && decide (S.L &&& s.cfg.snzWatch ≠ (S.tracker .snz).prev &&& s.cfg.snzWatch) }
    let T : Block s.cfg :=
      { S.setTracker .snz k with CF := false, respValid := true, respData := 0#s.cfg.respWidth, respErr := false }
    exec .snzUpdate s = .next { s with block := T } ∧
    ∀ op : Opcode s.cfg, decodeCommand s.cfg op = .snzUpdate →
      T.tracker .snz = k ∧ T.tracker .rot = S.tracker .rot ∧
      Run [inputsOf (some op) cap false] S (T.withCapture cap) ∧
      Run [inputsOf (some op) none false, inputsOf (some op) none false] S (T.setTracker .snz { prev := S.L, rc := false })

/-- R103, R101: the UPDATE shared by the trackers that are built: the flag is consumed whether or not the levels differ,
`prev` is overwritten every time, the old `rc` is discarded, and with a mask of all ones the comparison is the unmasked one. -/
def Obligations.UpdateIsSharedByBothTrackers : Prop :=
  ∀ (t : TrackerId) (s : State), t.built s.cfg = true → ∃ U : Block s.cfg, exec (updateOf t) s = .next { s with block := U } ∧
    U.CF = false ∧ U.L = s.block.L ∧ U.outputs = { respValid := true, respData := 0#s.cfg.respWidth, respErr := false } ∧
    (U.tracker t).prev = s.block.L ∧
    ((U.tracker t).rc = true ↔
      s.block.CF = true ∧ s.block.L &&& watchMask s.cfg t ≠ (s.block.tracker t).prev &&& watchMask s.cfg t) ∧
    (watchMask s.cfg t = BitVec.allOnes s.cfg.nLevels →
      ((U.tracker t).rc = true ↔ s.block.CF = true ∧ s.block.L ≠ (s.block.tracker t).prev)) ∧
    (∀ t', t' ≠ t → U.tracker t' = s.block.tracker t') ∧
    (∀ b : Bool, exec (updateOf t) { s with block := s.block.setTracker t { prev := (s.block.tracker t).prev, rc := b } } =
      .next { s with block := U })

/-- R105: ROT_CW answers relevantChange and A ≠ B in the tracker's `prev`, and clears `rc` whatever it answers; the query
after it, ROT_CW or ROT_PRESS, answers 0. Under the default level bit assignment of R6, A and B are bits 0 and 1. -/
def Obligations.RotCwAnswersThePhaseOnce : Prop :=
  decodeCommand Config.default 0x4#4 = .rotCw ∧
  ∀ (s : State) (cap : Option (Levels s.cfg)),
    let S : Block s.cfg := s.block
    let k : Tracker s.cfg := S.tracker .rot
    let T : Block s.cfg :=
      { S.setTracker .rot { prev := k.prev, rc := false } with
        respValid := true
        respData := answer s.cfg (k.rc && (k.prev.getLsbD s.cfg.lines.rotaryA != k.prev.getLsbD s.cfg.lines.rotaryB))
        respErr := false }
    (DefaultLines s.cfg → T.respData = answer s.cfg (k.rc && (k.prev.getLsbD 0 != k.prev.getLsbD 1))) ∧
    exec .rotCw s = .next { s with block := T } ∧
    ∀ op : Opcode s.cfg, decodeCommand s.cfg op = .rotCw →
      T.tracker .rot = { prev := k.prev, rc := false } ∧ T.tracker .snz = S.tracker .snz ∧
      Run [inputsOf (some op) cap false] S (T.withCapture cap) ∧
      ∀ (next : Opcode s.cfg) (u : Block s.cfg), decodeCommand s.cfg next = .rotCw ∨ decodeCommand s.cfg next = .rotPress →
        Run [inputsOf (some op) cap false, inputsOf (some next) none false] S u → u.respData = answer s.cfg false

/-- R106: ROT_PRESS answers relevantChange and the rotary button level low in the tracker's `prev`, and clears `rc`
whatever it answers; the query after it answers 0. Under the default level bit assignment of R6, the button is bit 2. -/
def Obligations.RotPressAnswersTheButtonOnce : Prop :=
  decodeCommand Config.default 0x5#4 = .rotPress ∧
  ∀ (s : State) (cap : Option (Levels s.cfg)),
    let S : Block s.cfg := s.block
    let k : Tracker s.cfg := S.tracker .rot
    let T : Block s.cfg :=
      { S.setTracker .rot { prev := k.prev, rc := false } with
        respValid := true
        respData := answer s.cfg (k.rc && !k.prev.getLsbD s.cfg.lines.rotaryButton)
        respErr := false }
    (DefaultLines s.cfg → T.respData = answer s.cfg (k.rc && !k.prev.getLsbD 2)) ∧
    exec .rotPress s = .next { s with block := T } ∧
    ∀ op : Opcode s.cfg, decodeCommand s.cfg op = .rotPress →
      T.tracker .rot = { prev := k.prev, rc := false } ∧ T.tracker .snz = S.tracker .snz ∧
      Run [inputsOf (some op) cap false] S (T.withCapture cap) ∧
      ∀ (next : Opcode s.cfg) (u : Block s.cfg), decodeCommand s.cfg next = .rotCw ∨ decodeCommand s.cfg next = .rotPress →
        Run [inputsOf (some op) cap false, inputsOf (some next) none false] S u → u.respData = answer s.cfg false

/-- R108: SNZ_PRESS answers relevantChange and the snooze level low in the tracker's `prev`, and clears `rc` whatever it
answers; a second SNZ_PRESS answers 0; the rotary tracker is neither read nor written. Under the default level bit
assignment of R6, the button is bit 3. -/
def Obligations.SnzPressAnswersTheButtonOnce : Prop :=
  decodeCommand Config.default 0x7#4 = .snzPress ∧
  ∀ (s : State) (cap : Option (Levels s.cfg)),
    let S : Block s.cfg := s.block
    let k : Tracker s.cfg := S.tracker .snz
    let T : Block s.cfg :=
      { S.setTracker .snz { prev := k.prev, rc := false } with
        respValid := true
        respData := answer s.cfg (k.rc && !k.prev.getLsbD s.cfg.lines.snoozeButton)
        respErr := false }
    (DefaultLines s.cfg → T.respData = answer s.cfg (k.rc && !k.prev.getLsbD 3)) ∧
    exec .snzPress s = .next { s with block := T } ∧
    (∀ r : Tracker s.cfg, exec .snzPress { s with block := S.setTracker .rot r } = .next { s with block := T.setTracker .rot r }) ∧
    ∀ op : Opcode s.cfg, decodeCommand s.cfg op = .snzPress →
      T.tracker .snz = { prev := k.prev, rc := false } ∧ T.tracker .rot = S.tracker .rot ∧
      Run [inputsOf (some op) cap false] S (T.withCapture cap) ∧
      ∀ u : Block s.cfg, Run [inputsOf (some op) cap false, inputsOf (some op) none false] S u → u.respData = answer s.cfg false

/-- R102: a query's answer is computed from its tracker's `rc` and `prev` alone (not from `S.L`, which a later capture may
already have changed), and it clears `rc` whatever it answers, whatever the capture port carries beside it. -/
def Obligations.QueriesReadOnlyTheirTrackerAndClearIt : Prop :=
  ∀ (c : Config) (tr : TrackerId) (q : Inputs c) (s t : Block c), IsQuery tr q → Run [q] s t →
    t.tracker tr = { prev := (s.tracker tr).prev, rc := false } ∧
    ∀ s' t' : Block c, s'.tracker tr = s.tracker tr → Run [q] s' t' → t'.outputs = t.outputs

/-- R100, R21, R86: levels are stored and answered uninverted, and only the press queries invert them. The phase test is
A ≠ B and does not change when the levels are inverted. When each line is wired to a bit of its own, as R86 demands, a
capture stores each line's level in its bit, SNAPSHOT answers these same levels (where RESP_WIDTH has room for them) and
either UPDATE stores them, ROT_PRESS and SNZ_PRESS answer that their button's level is low, and ROT_CW that A and B differ. -/
def Obligations.LevelsAreStoredUninvertedAndReadByLine : Prop :=
  (∀ (c : Config) (v : Levels c),
    phase c v = (v.getLsbD c.lines.rotaryA != v.getLsbD c.lines.rotaryB) ∧ phase c (~~~v) = phase c v ∧
    (rotaryPressed c v = true ↔ v.getLsbD c.lines.rotaryButton = false) ∧
    (snoozePressed c v = true ↔ v.getLsbD c.lines.snoozeButton = false)) ∧
  ∀ (f : Line → Bool) (s : State), DistinctLines s.cfg →
    let pins : Levels s.cfg := pinsOf s.cfg f
    (∀ l : Line, pins.getLsbD (lineBit s.cfg.lines l) = f l) ∧
    (∃ T : Block s.cfg, exec (.capture ⟨s.cfg.nLevels, pins⟩) s = .next { s with block := T } ∧ T.L = pins ∧
      (∃ U : Block s.cfg, exec .snapshot { s with block := T } = .next { s with block := U } ∧
        (s.cfg.nLevels ≤ s.cfg.respWidth → ∀ l : Line, U.respData.getLsbD (lineBit s.cfg.lines l) = f l)) ∧
      ∀ tr : TrackerId, tr.built s.cfg = true →
        ∃ U : Block s.cfg, exec (updateOf tr) { s with block := T } = .next { s with block := U } ∧ (U.tracker tr).prev = pins) ∧
    (s.block.tracker .rot = { prev := pins, rc := true } →
      (∃ W : Block s.cfg, exec .rotPress s = .next { s with block := W } ∧ W.respData = answer s.cfg (!f .rotaryButton)) ∧
      ∃ W : Block s.cfg, exec .rotCw s = .next { s with block := W } ∧ W.respData = answer s.cfg (f .rotaryA != f .rotaryB)) ∧
    (s.block.tracker .snz = { prev := pins, rc := true } →
      ∃ W : Block s.cfg, exec .snzPress s = .next { s with block := W } ∧ W.respData = answer s.cfg (!f .snoozeButton))

/-- R25: the transition table of a tracker, over every step. -/
def Obligations.TrackerTransitionsAreAsTabled : Prop :=
  ∀ (c : Config) (t : TrackerId) (inp : Inputs c) (s u : Block c), Run [inp] s u →
    (inp.rst = true → (u.tracker t).rc = false) ∧
    (IsUpdate t inp →
      ((u.tracker t).rc = true ↔ s.CF = true ∧ s.L &&& watchMask c t ≠ (s.tracker t).prev &&& watchMask c t) ∧
      (u.tracker t).prev = s.L) ∧
    (IsQuery t inp → (u.tracker t).rc = false) ∧
    (inp.rst = false → ¬ IsUpdate t inp → ¬ IsQuery t inp → u.tracker t = s.tracker t)

/-! ### Responses -/

/-- R66, R67: every step with a command and no reset leaves one response with the data and the error bit of R67's table,
of the state before the step, whatever the capture port carries; every other step leaves (0, 0b0000, 0). The error bit is
that of a reserved opcode: `op[3]` with the default OPCODE_WIDTH and N_TRACKERS. At other parameters the model's: which
opcodes are reserved (log entries 4 and 15), and the zeros in SNAPSHOT's data bits above N_LEVELS (log entry 4). Of a
response narrower than the levels it states no data for SNAPSHOT (log entry 14). -/
def Obligations.ResponsesAreAsTabled : Prop :=
  ∀ (c : Config) (inp : Inputs c) (s u : Block c), Run [inp] s u →
    (inp.rst = false → inp.cmdValid = true →
      u.respValid = true ∧ (u.respErr = true ↔ ∃ r, command? inp = some (.reserved r)) ∧
      (c.opcodeWidth = 4 → 2 ≤ c.nTrackers → u.respErr = inp.cmdOp.getLsbD 3) ∧
      (command? inp = some .snapshot → c.nLevels ≤ c.respWidth → ∀ i, u.respData.getLsbD i = s.L.getLsbD i) ∧
      (command? inp = some .consumeChanged → u.respData = answer c s.CF) ∧
      (command? inp = some .rotCw → u.respData = answer c ((s.tracker .rot).rc &&
        ((s.tracker .rot).prev.getLsbD c.lines.rotaryA != (s.tracker .rot).prev.getLsbD c.lines.rotaryB))) ∧
      (command? inp = some .rotPress →
        u.respData = answer c ((s.tracker .rot).rc && !(s.tracker .rot).prev.getLsbD c.lines.rotaryButton)) ∧
      (command? inp = some .snzPress →
        u.respData = answer c ((s.tracker .snz).rc && !(s.tracker .snz).prev.getLsbD c.lines.snoozeButton)) ∧
      (command? inp ≠ some .snapshot → command? inp ≠ some .consumeChanged → command? inp ≠ some .rotCw →
        command? inp ≠ some .rotPress → command? inp ≠ some .snzPress → u.respData = 0#c.respWidth)) ∧
    (inp.rst = true ∨ inp.cmdValid = false → u.outputs = { respValid := false, respData := 0#c.respWidth, respErr := false })

/-! ### Who writes what -/

/-- R20, R32, R85: over every instruction, each field changes only by the hand of its owners, no instruction touches the
parameters (nor the model's own fields), and none writes the record of a tracker beyond ROT and SNZ (log entry 15). -/
def Obligations.EachFieldHasItsWriters : Prop :=
  ∀ (i : Instr) (s t : State), exec i s = .next t → ∃ T : Block s.cfg, t = { s with block := T } ∧
    (T.L ≠ s.block.L → ∃ pins, i = .capture pins) ∧
    (s.block.CF = false → T.CF = true → ∃ pins, i = .capture pins) ∧
    (s.block.CF = true → T.CF = false → i = .consumeChanged ∨ i = .rotUpdate ∨ i = .snzUpdate) ∧
    ((T.tracker .rot).prev ≠ (s.block.tracker .rot).prev → i = .rotUpdate) ∧
    ((T.tracker .rot).rc ≠ (s.block.tracker .rot).rc → i = .rotUpdate ∨ i = .rotCw ∨ i = .rotPress) ∧
    ((T.tracker .snz).prev ≠ (s.block.tracker .snz).prev → i = .snzUpdate) ∧
    ((T.tracker .snz).rc ≠ (s.block.tracker .snz).rc → i = .snzUpdate ∨ i = .snzPress) ∧
    (∀ (k : Nat) (hk : k < s.cfg.nTrackers), 2 ≤ k → T.trackers[k] = s.block.trackers[k]) ∧
    (T.outputs ≠ s.block.outputs → i.isCommand = true)

/-- R44 (with R141's reserved opcodes; log entry 7): NOP, SNAPSHOT and the reserved opcodes change no field but the response
registers, and each of the six other commands changes another field of some state. -/
def Obligations.OnlyTheSixReadersChangeTheState : Prop :=
  (∀ (i : Instr) (s : State), i = .nop ∨ i = .snapshot ∨ (∃ op, i = .reserved op) →
    ∃ T : Block s.cfg, exec i s = .next { s with block := T } ∧
      T = { s.block with respValid := T.respValid, respData := T.respData, respErr := T.respErr } ∧
      exec i { s with block := T } = .next { s with block := T }) ∧
  ∀ i : Instr, i ∈ [Instr.consumeChanged, .rotUpdate, .rotCw, .rotPress, .snzUpdate, .snzPress] →
    ∃ (s : State) (T : Block s.cfg), exec i s = .next { s with block := T } ∧
      T ≠ { s.block with respValid := T.respValid, respData := T.respData, respErr := T.respErr }

/-- R49: where a command clears the flag and a capture sets it in one step, the set is last: no capture is lost. -/
def Obligations.SameStepCaptureIsNotLost : Prop :=
  ∀ (c : Config) (s u : Block c) (op : Opcode c) (pins : Levels c),
    Run [inputsOf (some op) (some pins) false] s u → u.CF = true ∧ u.L = pins

/-! ### Reset -/

/-- R31, R6: the state right after reset, field by field, with each of the eight parameters at its default. -/
def Obligations.ResetStateHoldsTheTabledValues : Prop :=
  State.reset.cfg =
    { nLevels := 4
      nTrackers := 2
      opcodeWidth := 4
      respWidth := 4
      lines := { rotaryA := 0, rotaryB := 1, rotaryButton := 2, snoozeButton := 3 }
      rotWatch := 0b0111#4
      snzWatch := 0b1000#4
      resetLevels := 0b0000#4 } ∧
  State.reset.block.L = 0b0000#4 ∧ State.reset.block.CF = false ∧
  State.reset.block.tracker .rot = { prev := 0b0000#4, rc := false } ∧
  State.reset.block.tracker .snz = { prev := 0b0000#4, rc := false } ∧
  State.reset.block.respValid = false ∧ State.reset.block.respData = 0b0000#4 ∧ State.reset.block.respErr = false ∧
  State.reset.block = Block.resetState Config.default

/-- R170: a step with `rst = 1` loads every field with its reset value, for every choice of RESET_LEVELS and whatever else
the ports carry. -/
def Obligations.ResetStepLoadsEveryField : Prop :=
  ∀ (c : Config) (s : Block c) (inp : Inputs c), inp.rst = true →
    Run [inp] s
      { L := c.resetLevels
        CF := false
        trackers := Vector.replicate c.nTrackers { prev := c.resetLevels, rc := false }
        respValid := false
        respData := 0#c.respWidth
        respErr := false }

/-- R171: in a reset step the command gets no response and the capture is lost, and holding `rst = 1` over several steps
gives the reset state after each of them. -/
def Obligations.ResetDiscardsCommandAndCapture : Prop :=
  ∀ (c : Config) (xs : List (Inputs c)) (s t : Block c), xs ≠ [] → (∀ i ∈ xs, i.rst = true) → Run xs s t →
    t.respValid = false ∧ t.L = c.resetLevels ∧ t.CF = false ∧ t = Block.resetState c

/-- R172, its first part: after reset and before any capture, whatever commands are issued, SNAPSHOT answers
RESET_LEVELS, CONSUME_CHANGED and every query answer 0, and every UPDATE computes `rc = 0`. SNAPSHOT's data is
`snapshotData` of RESET_LEVELS: RESET_LEVELS itself by default; in a response wider than the levels the bits above them are
zero (log entry 4) and in a narrower one it is the free value of log entry 14, both the model's. -/
def Obligations.NothingIsReportedBeforeTheFirstCapture : Prop :=
  ∀ (c : Config) (xs : List (Inputs c)) (s t u : Block c) (op : Opcode c), s.Quiet → (∀ i ∈ xs, captured? i = none) →
    Run xs s t → Run [inputsOf (some op) none false] t u →
    t.Quiet ∧ (decodeCommand c op = .snapshot → u.respData = snapshotData c c.resetLevels) ∧
      (decodeCommand c op ≠ .snapshot → u.respData = 0#c.respWidth) ∧ (u.tracker .rot).rc = false ∧ (u.tracker .snz).rc = false

/-- R172, its second part: with the default RESET_LEVELS and both buttons idle high, the first tracker to UPDATE after the
first capture finds a change; a press query then answers 0, and ROT_CW answers whether A ≠ B. -/
def Obligations.FirstCaptureAfterResetReportsNoPress : Prop :=
  ∀ (a b : Bool) (t : Block Config.default),
    let pins : Levels Config.default := pinsOf Config.default (fun l => match l with
      | .rotaryA => a
      | .rotaryB => b
      | .rotaryButton => true
      | .snoozeButton => true)
    (Run [inputsOf none (some pins) false, inputsOf (some 0x6#4) none false] (Block.resetState Config.default) t →
      (t.tracker .snz).rc = true ∧ ∀ u, Run [inputsOf (some 0x7#4) none false] t u → u.respData = 0b0000#4) ∧
    (Run [inputsOf none (some pins) false, inputsOf (some 0x3#4) none false] (Block.resetState Config.default) t →
      (t.tracker .rot).rc = true ∧ (∀ u, Run [inputsOf (some 0x5#4) none false] t u → u.respData = 0b0000#4) ∧
      ∀ u, Run [inputsOf (some 0x4#4) none false] t u → u.respData = if a != b then 0b0001#4 else 0b0000#4)

/-- R174: priming in either order leaves both trackers holding the captured levels. -/
def Obligations.PrimingInEitherOrderLoadsBothTrackers : Prop :=
  ∀ (c : Config) (s t : Block c) (pins : Levels c) (rot snz : Opcode c),
    decodeCommand c rot = .rotUpdate → decodeCommand c snz = .snzUpdate →
    Run [inputsOf none (some pins) false, inputsOf (some snz) none false, inputsOf (some rot) none false] s t ∨
      Run [inputsOf none (some pins) false, inputsOf (some rot) none false, inputsOf (some snz) none false] s t →
    t.L = pins ∧ (t.tracker .rot).prev = t.L ∧ (t.tracker .snz).prev = t.L ∧
      ((t.tracker .rot).rc = false ∨ (t.tracker .snz).rc = false)

/-! ### What the host must know -/

/-- R83, R184: between two polls any number of captures collapse into one state, the last capture's pins with the flag
set; the next poll, CONSUME_CHANGED or an UPDATE, reports one change, and the poll after it none. -/
def Obligations.CapturesBetweenPollsCollapse : Prop :=
  ∀ (c : Config) (xs : List (Inputs c)) (s t : Block c), (∀ i ∈ xs, i.rst = false ∧ ¬ IsPoll i) → Run xs s t →
    ∀ pins : Levels c, (xs.filterMap captured?).getLast? = some pins →
      t.L = pins ∧ t.CF = true ∧
      (∀ (op : Opcode c) (u : Block c), decodeCommand c op = .consumeChanged →
        (Run [inputsOf (some op) none false] t u → u.respData = answer c true) ∧
        (Run [inputsOf (some op) none false, inputsOf (some op) none false] t u → u.respData = answer c false)) ∧
      ∀ (tr : TrackerId) (op : Opcode c) (u : Block c), decodeCommand c op = updateOf tr →
        Run [inputsOf (some op) none false] t u →
        ((u.tracker tr).rc = true ↔ pins &&& watchMask c tr ≠ (t.tracker tr).prev &&& watchMask c tr) ∧
        ∀ v, Run [inputsOf (some op) none false] u v → (v.tracker tr).rc = false

/-- R84: the levels always come from one capture, the latest, or are all RESET_LEVELS if a reset came later. -/
def Obligations.LevelsAreTheLatestBurst : Prop :=
  ∀ (c : Config) (xs : List (Inputs c)) (s t : Block c), Run xs s t →
    t.L = match xs.reverse.find? (fun i => i.rst || i.capStrobe) with
      | none => s.L
      | some i => if i.rst then c.resetLevels else i.capPins

/-- R109: the first poller takes the flag. After any poll, and until the next capture, every UPDATE computes `rc = 0`, and
takes the levels into `prev`, so that the change is never reported. -/
def Obligations.LaterPollersSeeNoChange : Prop :=
  ∀ (c : Config) (xs : List (Inputs c)) (p : Inputs c) (tr : TrackerId) (upd : Inputs c) (s t : Block c),
    IsPoll p → captured? p = none → (∀ i ∈ xs, i.rst = false ∧ captured? i = none) → IsUpdate tr upd →
    Run (p :: xs ++ [upd]) s t → (t.tracker tr).rc = false ∧ (captured? upd = none → (t.tracker tr).prev = t.L)

/-- R109: a change is reported only by an UPDATE that is the first poll after a capture (or after the start, where the flag
was already set). -/
def Obligations.ReportedChangeIsTheFirstPoll : Prop :=
  ∀ (c : Config) (xs : List (Inputs c)) (tr : TrackerId) (upd : Inputs c) (s t : Block c),
    IsUpdate tr upd → Run (xs ++ [upd]) s t → (t.tracker tr).rc = true →
    (∃ (ys zs : List (Inputs c)) (i : Inputs c) (pins : Levels c), xs = ys ++ i :: zs ∧ captured? i = some pins ∧
      ∀ j ∈ zs, j.rst = false ∧ ¬ IsPoll j) ∨
    (s.CF = true ∧ ∀ j ∈ xs, j.rst = false ∧ ¬ IsPoll j)

/-- R177, R109: with the rotary tracker updated first, a snooze press is not reported, and with the snooze tracker first it
is: the spec's lost press, for every state and every capture. -/
def Obligations.UpdateOrderDecidesWhichChangeIsLost : Prop :=
  ∀ (c : Config) (s t : Block c) (pins : Levels c) (rot snz press : Opcode c),
    decodeCommand c rot = .rotUpdate → decodeCommand c snz = .snzUpdate → decodeCommand c press = .snzPress →
    (Run [inputsOf none (some pins) false, inputsOf (some rot) none false, inputsOf (some snz) none false,
        inputsOf (some press) none false] s t → t.respData = answer c false) ∧
    (Run [inputsOf none (some pins) false, inputsOf (some snz) none false, inputsOf (some press) none false] s t →
      pins &&& c.snzWatch ≠ (s.tracker .snz).prev &&& c.snzWatch → pins.getLsbD c.lines.snoozeButton = false →
      t.respData = answer c true)

/-- R111, R176: after a query of a tracker, every later query of it answers 0 until its next UPDATE, whatever else
happens. -/
def Obligations.OneQueryAnswerPerUpdate : Prop :=
  ∀ (c : Config) (tr : TrackerId) (q q' : Inputs c) (xs : List (Inputs c)) (s t : Block c), IsQuery tr q → IsQuery tr q' →
    (∀ i ∈ xs, ¬ IsUpdate tr i) → Run (q :: xs ++ [q']) s t → t.respValid = true ∧ t.respData = answer c false

/-- R112: a bounce that brings the watched levels back to their old values before the tracker's next UPDATE is filtered
out, however many captures it took. -/
def Obligations.BounceBackIsFiltered : Prop :=
  ∀ (c : Config) (tr : TrackerId) (xs : List (Inputs c)) (upd : Inputs c) (pins : Levels c) (s t : Block c),
    (∀ i ∈ xs, i.rst = false ∧ ¬ IsUpdate tr i) → (xs.filterMap captured?).getLast? = some pins →
    pins &&& watchMask c tr = (s.tracker tr).prev &&& watchMask c tr → IsUpdate tr upd → Run (xs ++ [upd]) s t →
    (t.tracker tr).rc = false

/-- R113: a tracker's record persists until its next query or UPDATE (or a reset). What the UPDATE then computes does not
depend on the old `rc`: an unqueried change is lost. -/
def Obligations.UnqueriedChangePersistsOnlyUntilTheNextUpdate : Prop :=
  ∀ (c : Config) (tr : TrackerId) (xs : List (Inputs c)) (s t : Block c),
    (∀ i ∈ xs, i.rst = false ∧ ¬ IsUpdate tr i ∧ ¬ IsQuery tr i) → Run xs s t →
    t.tracker tr = s.tracker tr ∧
    ∀ (upd : Inputs c) (b : Bool) (u u' : Block c), IsUpdate tr upd → Run [upd] t u →
      Run [upd] (t.setTracker tr { prev := (t.tracker tr).prev, rc := b }) u' → u' = u

/-- R178: an UPDATE sees the levels and the flag before a capture of the same step; the capture then sets the flag and the
new levels, and the next poll, CONSUME_CHANGED or an UPDATE, sees the change. -/
def Obligations.CaptureBesideAnUpdateIsSeenByTheNextPoll : Prop :=
  ∀ (c : Config) (tr : TrackerId) (s t : Block c) (pins : Levels c) (upd : Opcode c), decodeCommand c upd = updateOf tr →
    Run [inputsOf (some upd) (some pins) false] s t →
    (t.tracker tr).prev = s.L ∧
    ((t.tracker tr).rc = true ↔ s.CF = true ∧ s.L &&& watchMask c tr ≠ (s.tracker tr).prev &&& watchMask c tr) ∧
    t.CF = true ∧ t.L = pins ∧
    (∀ (op : Opcode c) (u : Block c), decodeCommand c op = .consumeChanged → Run [inputsOf (some op) none false] t u →
      u.respData = answer c true) ∧
    ∀ u, Run [inputsOf (some upd) none false] t u →
      ((u.tracker tr).rc = true ↔ pins &&& watchMask c tr ≠ s.L &&& watchMask c tr)

/-- R101, D8: with the snooze line on a bit that no other line has and that the rotary mask leaves out, as by default, the
snooze levels of the captures have no influence on the rotary tracker, nor on any answer to a rotary query, in any run. -/
def Obligations.SnoozeLevelsDoNotReachTheRotaryQueries : Prop :=
  ∀ (c : Config) (xs ys : List (Inputs c)) (s t s' t' : Block c),
    c.lines.snoozeButton ∉ [c.lines.rotaryA, c.lines.rotaryB, c.lines.rotaryButton] →
    c.rotWatch.getLsbD c.lines.snoozeButton = false → RotaryAgree s t →
    List.Forall₂ InputsButSnooze xs ys → Run xs s s' → Run ys t t' →
    RotaryAgree s' t' ∧ ∀ (q : Inputs c) (u u' : Block c), IsQuery .rot q → Run [q] s' u → Run [q] t' u' → u.outputs = u'.outputs

/-! ### Invariants -/

/-- R31, R66: the invariant holds right after reset, for every choice of the parameters. -/
def Obligations.ResetStateMeetsTheInvariant : Prop := State.reset.block.Inv ∧ ∀ c : Config, (Block.resetState c).Inv

/-- R66, R67, R101: every step keeps the invariant: the response registers hold something a step can leave there, and a
tracker with an empty watch mask stays Idle. -/
def Obligations.EveryStepKeepsTheInvariant : Prop :=
  ∀ s t : State, s.block.Inv → step s = .next t → t.block.Inv

/-- R31: the reset state is what the empty history says, for every choice of the parameters. -/
def Obligations.ResetStateIsTheEmptyHistory : Prop :=
  Explained [] State.reset.block ∧ ∀ c : Config, Explained [] (Block.resetState c)

/-- R20, R22, R23, R25, R45, R66, R67, R84: after every step each field is what the history of inputs says it is: the levels
of the latest capture, the flag of an unpolled capture, each tracker's levels at its latest UPDATE and whether that
UPDATE found a change no query has taken, and the newest step's response. At parameters other than the defaults the model's:
that opcode numbers above 0xF are reserved and what the bits above the levels are in a wide response (log entry 4), the free
data of a SNAPSHOT in a narrow one (log entry 14), that the opcodes of a tracker that is not built are reserved and that a
tracker beyond ROT and SNZ stays as reset left it (log entry 15). -/
def Obligations.EveryStepExtendsTheHistory : Prop :=
  ∀ (s t : State) (h : List (Inputs s.cfg)), Explained h s.block → step s = .next t →
    ∃ T : Block s.cfg, t = { s.takeInputs with block := T } ∧ Explained (s.nextInputs :: h) T

/-- R103, R80, R109: as long as the host issues no CONSUME_CHANGED, a clear flag means that one of the trackers holds the
current levels in `prev`. (It says nothing of levels that a later capture overwrote: R83, R184.) -/
def Obligations.WithoutConsumeAClearFlagMeansATrackerHoldsTheLevels : Prop :=
  ∀ s t : State, s.block.LevelsSeen → command? s.nextInputs ≠ some .consumeChanged → step s = .next t → t.block.LevelsSeen
end

