-- ==== Sys2Proof/Laws/State.lean ====
section
/-! SUPPORT. One lemma per field per update of the state, so that no later proof unfolds a record update, and the laws of a
tracker's record: what is written is read back, every other record is left alone. -/

namespace Sys2Proof.Machine

namespace Block

variable {c : Config} (s : Block c)

/-! ### respond -/

@[simp] theorem respond_L (d : RespData c) (e : Bool) : (s.respond d e).L = s.L := rfl
@[simp] theorem respond_CF (d : RespData c) (e : Bool) : (s.respond d e).CF = s.CF := rfl
@[simp] theorem respond_trackers (d : RespData c) (e : Bool) : (s.respond d e).trackers = s.trackers := rfl
@[simp] theorem respond_respValid (d : RespData c) (e : Bool) : (s.respond d e).respValid = true := rfl
@[simp] theorem respond_respData (d : RespData c) (e : Bool) : (s.respond d e).respData = d := rfl
@[simp] theorem respond_respErr (d : RespData c) (e : Bool) : (s.respond d e).respErr = e := rfl
@[simp] theorem respond_tracker (d : RespData c) (e : Bool) (t : TrackerId) : (s.respond d e).tracker t = s.tracker t := rfl

/-! ### noResponse -/

@[simp] theorem noResponse_L : (s.noResponse).L = s.L := rfl
@[simp] theorem noResponse_CF : (s.noResponse).CF = s.CF := rfl
@[simp] theorem noResponse_trackers : (s.noResponse).trackers = s.trackers := rfl
@[simp] theorem noResponse_respValid : (s.noResponse).respValid = false := rfl
@[simp] theorem noResponse_respData : (s.noResponse).respData = 0#c.respWidth := rfl
@[simp] theorem noResponse_respErr : (s.noResponse).respErr = false := rfl
@[simp] theorem noResponse_tracker (t : TrackerId) : (s.noResponse).tracker t = s.tracker t := rfl

/-! ### capture -/

@[simp] theorem capture_L (pins : Levels c) : (s.capture pins).L = pins := rfl
@[simp] theorem capture_CF (pins : Levels c) : (s.capture pins).CF = true := rfl
@[simp] theorem capture_trackers (pins : Levels c) : (s.capture pins).trackers = s.trackers := rfl
@[simp] theorem capture_respValid (pins : Levels c) : (s.capture pins).respValid = s.respValid := rfl
@[simp] theorem capture_respData (pins : Levels c) : (s.capture pins).respData = s.respData := rfl
@[simp] theorem capture_respErr (pins : Levels c) : (s.capture pins).respErr = s.respErr := rfl
@[simp] theorem capture_tracker (pins : Levels c) (t : TrackerId) : (s.capture pins).tracker t = s.tracker t := rfl

/-! ### consumeFlag -/

@[simp] theorem consumeFlag_fst : s.consumeFlag.1 = s.CF := rfl
@[simp] theorem consumeFlag_L : s.consumeFlag.2.L = s.L := rfl
@[simp] theorem consumeFlag_CF : s.consumeFlag.2.CF = false := rfl
@[simp] theorem consumeFlag_trackers : s.consumeFlag.2.trackers = s.trackers := rfl
@[simp] theorem consumeFlag_respValid : s.consumeFlag.2.respValid = s.respValid := rfl
@[simp] theorem consumeFlag_respData : s.consumeFlag.2.respData = s.respData := rfl
@[simp] theorem consumeFlag_respErr : s.consumeFlag.2.respErr = s.respErr := rfl
@[simp] theorem consumeFlag_tracker (t : TrackerId) : s.consumeFlag.2.tracker t = s.tracker t := rfl

/-! ### resetState -/

@[simp] theorem resetState_L : (resetState c).L = c.resetLevels := rfl
@[simp] theorem resetState_CF : (resetState c).CF = false := rfl
@[simp] theorem resetState_trackers : (resetState c).trackers = Vector.replicate c.nTrackers { prev := c.resetLevels, rc := false } := rfl
@[simp] theorem resetState_respValid : (resetState c).respValid = false := rfl
@[simp] theorem resetState_respData : (resetState c).respData = 0#c.respWidth := rfl
@[simp] theorem resetState_respErr : (resetState c).respErr = false := rfl
@[simp] theorem resetState_tracker (t : TrackerId) : (resetState c).tracker t = { prev := c.resetLevels, rc := false } := by
  by_cases h : t.index < c.nTrackers <;> simp [tracker, resetState, h]

/-! ### setTracker and tracker -/

@[simp] theorem setTracker_L (t : TrackerId) (k : Tracker c) : (s.setTracker t k).L = s.L := rfl
@[simp] theorem setTracker_CF (t : TrackerId) (k : Tracker c) : (s.setTracker t k).CF = s.CF := rfl
@[simp] theorem setTracker_respValid (t : TrackerId) (k : Tracker c) : (s.setTracker t k).respValid = s.respValid := rfl
@[simp] theorem setTracker_respData (t : TrackerId) (k : Tracker c) : (s.setTracker t k).respData = s.respData := rfl
@[simp] theorem setTracker_respErr (t : TrackerId) (k : Tracker c) : (s.setTracker t k).respErr = s.respErr := rfl

/-- The record of a built tracker reads as written. -/
theorem tracker_setTracker_self {t : TrackerId} (h : t.built c = true) (k : Tracker c) : (s.setTracker t k).tracker t = k := by
  have ht : t.index < c.nTrackers := by simpa [TrackerId.built] using h
  simp [tracker, setTracker, ht]

/-- Writing one tracker's record leaves the other's alone. -/
theorem tracker_setTracker_ne {t t' : TrackerId} (h : t' ≠ t) (k : Tracker c) : (s.setTracker t k).tracker t' = s.tracker t' := by
  have ht : t.index ≠ t'.index := by cases t <;> cases t' <;> simp [TrackerId.index] at h ⊢
  simp [tracker, setTracker, ht]

@[simp] theorem setTracker_rot_snz (k : Tracker c) : (s.setTracker .rot k).tracker .snz = s.tracker .snz :=
  s.tracker_setTracker_ne (by decide) k

@[simp] theorem setTracker_snz_rot (k : Tracker c) : (s.setTracker .snz k).tracker .rot = s.tracker .rot :=
  s.tracker_setTracker_ne (by decide) k

/-- A tracker that is not built has no record to write. -/
theorem setTracker_unbuilt {t : TrackerId} (h : t.built c = false) (k : Tracker c) : s.setTracker t k = s := by
  have ht : ¬ t.index < c.nTrackers := by simpa [TrackerId.built] using h
  simp [setTracker, Vector.setIfInBounds, Array.setIfInBounds, ht]

/-- A tracker that is not built reads as reset leaves a tracker. -/
theorem tracker_unbuilt {t : TrackerId} (h : t.built c = false) : s.tracker t = { prev := c.resetLevels, rc := false } := by
  have ht : ¬ t.index < c.nTrackers := by simpa [TrackerId.built] using h
  simp [tracker, ht]

/-- Of two writes of one record the later one stays. -/
@[simp] theorem setTracker_setTracker (t : TrackerId) (k k' : Tracker c) :
    (s.setTracker t k).setTracker t k' = s.setTracker t k' := by
  simp [setTracker]

/-- Writing back what a tracker's record holds changes nothing. -/
theorem setTracker_tracker (t : TrackerId) : s.setTracker t (s.tracker t) = s := by
  cases hb : t.built c
  · exact s.setTracker_unbuilt hb _
  · have ht : t.index < c.nTrackers := by simpa [TrackerId.built] using hb
    have hv : s.trackers.setIfInBounds t.index (s.tracker t) = s.trackers := by
      apply Vector.ext
      intro i hi
      by_cases hk : t.index = i
      · subst hk; simp [tracker, ht]
      · simp [Vector.getElem_setIfInBounds_ne, hk]
    simp [setTracker, hv]

theorem setTracker_comm {t t' : TrackerId} (h : t' ≠ t) (k k' : Tracker c) :
    (s.setTracker t k).setTracker t' k' = (s.setTracker t' k').setTracker t k := by
  have ht : t.index ≠ t'.index := by cases t <;> cases t' <;> simp [TrackerId.index] at h ⊢
  have hv : (s.trackers.setIfInBounds t.index k).setIfInBounds t'.index k' =
      (s.trackers.setIfInBounds t'.index k').setIfInBounds t.index k := by
    apply Vector.ext
    intro i hi
    simp only [Vector.getElem_setIfInBounds]
    split_ifs <;> first | rfl | omega
  simp [setTracker, hv]

/-- A record beyond the two that have commands is left alone. -/
theorem setTracker_others (t : TrackerId) (k : Tracker c) (i : Nat) (hi : i < c.nTrackers) (h2 : 2 ≤ i) :
    (s.setTracker t k).trackers[i] = s.trackers[i] := by
  have ht : t.index ≠ i := by cases t <;> simp [TrackerId.index] <;> omega
  simp [setTracker, Vector.getElem_setIfInBounds_ne, ht]

/-! ### outputs -/

@[simp] theorem outputs_respValid : s.outputs.respValid = s.respValid := rfl
@[simp] theorem outputs_respData : s.outputs.respData = s.respData := rfl
@[simp] theorem outputs_respErr : s.outputs.respErr = s.respErr := rfl

end Block

namespace State

/-! ### present and takeInputs -/

@[simp] theorem present_cfg (s : State) (inp : Inputs s.cfg) : (s.present inp).cfg = s.cfg := rfl
@[simp] theorem present_block (s : State) (inp : Inputs s.cfg) : (s.present inp).block = s.block := rfl
@[simp] theorem present_pending (s : State) (inp : Inputs s.cfg) : (s.present inp).pending = inp :: s.pending := rfl
@[simp] theorem present_draws (s : State) (inp : Inputs s.cfg) : (s.present inp).draws = s.draws := rfl
@[simp] theorem takeInputs_cfg (s : State) : s.takeInputs.cfg = s.cfg := rfl
@[simp] theorem takeInputs_block (s : State) : s.takeInputs.block = s.block := rfl
@[simp] theorem takeInputs_pending (s : State) : s.takeInputs.pending = s.pending.tail := rfl
@[simp] theorem takeInputs_draws (s : State) : s.takeInputs.draws = s.nextDraws := rfl

end State

end Sys2Proof.Machine
end

