-- ==== Sys2Proof/Laws/Ops.lean ====
section
/-! SUPPORT. One spec lemma per shared operation: what decoding, the operand forms, the flag computations, UPDATE, the
queries and the taking of inputs do, so that later proofs cite these and unfold nothing. -/

namespace Sys2Proof

/-! ### Decoding -/

@[simp] theorem rot_built_iff (c : Config) : TrackerId.rot.built c = true ↔ 1 ≤ c.nTrackers := by
  exact decide_eq_true_iff

@[simp] theorem snz_built_iff (c : Config) : TrackerId.snz.built c = true ↔ 2 ≤ c.nTrackers := by
  exact decide_eq_true_iff

/-- An opcode decodes to a reserved instruction just where its number is reserved (30_encoding.md R62, R63). -/
theorem decodeCommand_reserved (c : Config) (op : Opcode c) (h : reservedOpcode c op.toNat = true) :
    decodeCommand c op = .reserved ⟨c.opcodeWidth, op⟩ := by
  unfold decodeCommand
  generalize hn : op.toNat = n at h
  match n with
  | 0 | 1 | 2 => cases h
  | 3 | 4 | 5 | 6 | 7 =>
    simp only [reservedOpcode, Bool.not_eq_true'] at h
    simp [trackerCommand, h]
  | _ + 8 => rfl

/-- Every opcode is one of the eight commands, by its number and of a built tracker, or reserved (R62, R63). -/
theorem decodeCommand_cases (c : Config) (op : Opcode c) :
    (op.toNat = 0x0 ∧ decodeCommand c op = .nop) ∨ (op.toNat = 0x1 ∧ decodeCommand c op = .snapshot) ∨
    (op.toNat = 0x2 ∧ decodeCommand c op = .consumeChanged) ∨
    (op.toNat = 0x3 ∧ 1 ≤ c.nTrackers ∧ decodeCommand c op = .rotUpdate) ∨
    (op.toNat = 0x4 ∧ 1 ≤ c.nTrackers ∧ decodeCommand c op = .rotCw) ∨
    (op.toNat = 0x5 ∧ 1 ≤ c.nTrackers ∧ decodeCommand c op = .rotPress) ∨
    (op.toNat = 0x6 ∧ 2 ≤ c.nTrackers ∧ decodeCommand c op = .snzUpdate) ∨
    (op.toNat = 0x7 ∧ 2 ≤ c.nTrackers ∧ decodeCommand c op = .snzPress) ∨
    (reservedOpcode c op.toNat = true ∧ decodeCommand c op = .reserved ⟨c.opcodeWidth, op⟩) := by
  cases hr : reservedOpcode c op.toNat
  · have hd : ∃ n, op.toNat = n := ⟨_, rfl⟩
    obtain ⟨n, hn⟩ := hd
    rw [hn] at hr
    unfold reservedOpcode at hr
    split at hr <;> simp_all [decodeCommand, trackerCommand, ← Bool.not_eq_true] <;> omega
  · simp [decodeCommand_reserved c op hr]

/-- Which opcode numbers, in a block with which trackers, each command decodes from. -/
theorem decodeCommand_eq_iff (c : Config) (op : Opcode c) :
    (decodeCommand c op = .nop ↔ op.toNat = 0x0) ∧ (decodeCommand c op = .snapshot ↔ op.toNat = 0x1) ∧
    (decodeCommand c op = .consumeChanged ↔ op.toNat = 0x2) ∧
    (decodeCommand c op = .rotUpdate ↔ op.toNat = 0x3 ∧ 1 ≤ c.nTrackers) ∧
    (decodeCommand c op = .rotCw ↔ op.toNat = 0x4 ∧ 1 ≤ c.nTrackers) ∧
    (decodeCommand c op = .rotPress ↔ op.toNat = 0x5 ∧ 1 ≤ c.nTrackers) ∧
    (decodeCommand c op = .snzUpdate ↔ op.toNat = 0x6 ∧ 2 ≤ c.nTrackers) ∧
    (decodeCommand c op = .snzPress ↔ op.toNat = 0x7 ∧ 2 ≤ c.nTrackers) := by
  obtain ⟨hn, h⟩ | ⟨hn, h⟩ | ⟨hn, h⟩ | ⟨hn, hb, h⟩ | ⟨hn, hb, h⟩ | ⟨hn, hb, h⟩ | ⟨hn, hb, h⟩ | ⟨hn, hb, h⟩ | ⟨hr, h⟩ :=
    decodeCommand_cases c op
  all_goals first | simp [h, hn, hb] | simp [h, hn] | skip
  have hd : ∃ n, op.toNat = n := ⟨_, rfl⟩
  obtain ⟨n, hn⟩ := hd
  rw [hn] at hr
  unfold reservedOpcode at hr
  split at hr <;> simp_all [← Bool.not_eq_true]

/-- Decoding never answers the event of the other port. -/
theorem decodeCommand_isCommand (c : Config) (op : Opcode c) : (decodeCommand c op).isCommand = true := by
  obtain ⟨_, h⟩ | ⟨_, h⟩ | ⟨_, h⟩ | ⟨_, _, h⟩ | ⟨_, _, h⟩ | ⟨_, _, h⟩ | ⟨_, _, h⟩ | ⟨_, _, h⟩ | ⟨_, h⟩ :=
    decodeCommand_cases c op <;> rw [h] <;> rfl

/-- The strobe and the pins read back from their bundle (R64). -/
theorem bundleOf_strobe (c : Config) (strobe : Bool) (pins : Levels c) : (bundleOf c strobe pins).getLsbD c.nLevels = strobe := by
  rw [bundleOf, BitVec.getLsbD_append]
  simp

theorem bundleOf_pins (c : Config) (strobe : Bool) (pins : Levels c) : (bundleOf c strobe pins).extractLsb' 0 c.nLevels = pins := by
  apply BitVec.eq_of_getLsbD_eq
  intro i hi
  simp [bundleOf, BitVec.getLsbD_append, hi]

/-- A bundle with the strobe is a capture of its pins (R64). -/
@[simp] theorem decodeBundle_strobe (c : Config) (pins : Levels c) :
    decodeBundle c (bundleOf c true pins) = .ok (.capture ⟨c.nLevels, pins⟩) := by
  unfold decodeBundle
  rw [if_pos (bundleOf_strobe c true pins), bundleOf_pins]

/-- A bundle without the strobe is no event (R64). -/
@[simp] theorem decodeBundle_noStrobe (c : Config) (pins : Levels c) :
    decodeBundle c (bundleOf c false pins) = .error (.noEvent (bundleOf c false pins)) := by
  unfold decodeBundle
  rw [bundleOf_strobe]
  rfl

namespace Machine

variable {c : Config}

/-! ### Operand forms -/

/-- A one-bit answer is 1 or 0 at every RESP_WIDTH (00_scope.md R7, 30_encoding.md R67). -/
theorem zext_eq (c : Config) (b : Bool) : zext c b = if b then 1#c.respWidth else 0#c.respWidth := by
  cases b
  · simp [zext]
  · apply BitVec.eq_of_getLsbD_eq
    intro i hi
    simp [zext, BitVec.getLsbD_one, hi]

@[simp] theorem zext_false (c : Config) : zext c false = 0#c.respWidth := by simp [zext_eq]
@[simp] theorem zext_true (c : Config) : zext c true = 1#c.respWidth := by simp [zext_eq]

/-- SNAPSHOT's data has the levels' bits, where they fit (R67). -/
theorem snapshotData_bits (h : c.nLevels ≤ c.respWidth) (v : Levels c) (i : Nat) : (snapshotData c v).getLsbD i = v.getLsbD i := by
  simp only [snapshotData, if_pos h, BitVec.getLsbD_setWidth]
  by_cases hi : i < c.respWidth
  · simp [hi]
  · simp [hi, BitVec.getLsbD_of_ge v i (by omega)]

@[simp] theorem watchMask_rot (c : Config) : watchMask c .rot = c.rotWatch := rfl
@[simp] theorem watchMask_snz (c : Config) : watchMask c .snz = c.snzWatch := rfl

theorem phase_eq (v : Levels c) : phase c v = (v.getLsbD c.lines.rotaryA ^^ v.getLsbD c.lines.rotaryB) := rfl
theorem rotaryPressed_eq (v : Levels c) : rotaryPressed c v = !v.getLsbD c.lines.rotaryButton := rfl
theorem snoozePressed_eq (v : Levels c) : snoozePressed c v = !v.getLsbD c.lines.snoozeButton := rfl

/-- One bit of a one-bit vector. -/
theorem getLsbD_oneBit {n : Nat} (i j : Fin n) (x : Bool) : (oneBit i x).getLsbD j = (decide (j = i) && x) := by
  have hj := j.isLt
  by_cases h : j = i
  · subst h
    simp [oneBit]
  · have hv : (j : Nat) ≠ i := fun e => h (Fin.ext e)
    simp only [oneBit, BitVec.getLsbD_shiftLeft, BitVec.getLsbD_setWidth, h, decide_false, Bool.false_and]
    by_cases hl : (j : Nat) < i
    · simp [hl]
    · have : (BitVec.ofBool x).getLsbD (j - i) = false := BitVec.getLsbD_of_ge _ _ (by omega)
      simp [this]

/-! ### Flag computations -/

/-- relevantChange is 1 just when the flag was set and the watched bits differ (41_debounce_trackers.md R103). -/
theorem relevantChange_iff (flag : Bool) (w snap prev : Levels c) :
    relevantChange flag w snap prev = true ↔ flag = true ∧ snap &&& w ≠ prev &&& w := by
  simp [relevantChange, watchedDiffer]

theorem relevantChange_eq (flag : Bool) (w snap prev : Levels c) :
    relevantChange flag w snap prev = (flag && decide (snap &&& w ≠ prev &&& w)) := by
  rw [Bool.eq_iff_iff, relevantChange_iff]
  simp

@[simp] theorem relevantChange_noFlag (w snap prev : Levels c) : relevantChange false w snap prev = false := rfl

/-- A query of an Idle tracker answers false (R102). -/
theorem singleShot_idle {k : Tracker c} (h : k.rc = false) (test : Levels c → Bool) : singleShot k test = false := by
  simp [singleShot, h]

/-! ### UPDATE and the queries -/

namespace Block

/-- All that an UPDATE does (R103, R104, R107). -/
theorem update_eq (s : Block c) (t : TrackerId) : s.update t =
    { s.setTracker t { prev := s.L, rc := relevantChange s.CF (watchMask c t) s.L (s.tracker t).prev } with
      CF := false
      respValid := true
      respData := 0#c.respWidth
      respErr := false } := rfl

/-- All that a query does (R102). -/
theorem query_eq (s : Block c) (t : TrackerId) (test : Levels c → Bool) : s.query t test =
    { s.setTracker t { prev := (s.tracker t).prev, rc := false } with
      respValid := true
      respData := zext c (singleShot (s.tracker t) test)
      respErr := false } := rfl

end Block

/-! ### The inputs of a step -/

namespace State

theorem nextInputs_listed (S : Block c) (inp : Inputs c) (rest : List (Inputs c)) (n : Nat) :
    (State.mk c S (inp :: rest) n).nextInputs = inp := rfl

theorem nextInputs_free (S : Block c) (n : Nat) : (State.mk c S [] n).nextInputs = Config.freeInputs c n := rfl

end State
end Machine
end Sys2Proof
end

