-- ==== Sys2Proof/Laws/Step.lean ====
section
/-! SUPPORT. What one step and a run can do, said once: every instruction, every clock edge and every run answers a next
state, and it is the one the functions `effect`, `edge` and `edges` name. -/

namespace Sys2Proof.Machine

variable {c : Config}

/-- What each instruction makes of the block's state. -/
def effect : Instr → Block c → Block c
  | .nop, s => s.respond 0#c.respWidth false
  | .snapshot, s => s.respond (snapshotData c s.L) false
  | .consumeChanged, s => ({ s with CF := false } : Block c).respond (zext c s.CF) false
  | .rotUpdate, s => s.update .rot
  | .rotCw, s => s.query .rot (phase c)
  | .rotPress, s => s.query .rot (rotaryPressed c)
  | .snzUpdate, s => s.update .snz
  | .snzPress, s => s.query .snz (snoozePressed c)
  | .reserved _, s => s.respond 0#c.respWidth true
  | .capture pins, s => s.capture (pins.value.setWidth c.nLevels)

/-- Every instruction answers a next state, in which only the block's state differs. -/
theorem exec_eq_effect (i : Instr) (s : State) : exec i s = .next { s with block := effect i s.block } := by
  cases i <;> rfl

@[simp] theorem effect_capture (pins : Levels c) (s : Block c) : effect (.capture ⟨c.nLevels, pins⟩) s = s.capture pins := by
  simp [effect]

/-- What a clock edge with the given inputs makes of the block's state (20_memory.md R45). -/
def edge (inp : Inputs c) (s : Block c) : Block c :=
  if inp.rst then Block.resetState c
  else
    let t := if inp.cmdValid then effect (decodeCommand c inp.cmdOp) s else s.noResponse
    if inp.capStrobe then t.capture inp.capPins else t

theorem clockEdge_eq_edge (inp : Inputs c) (S : Block c) (p : List (Inputs c)) (n : Nat) :
    clockEdge inp (State.mk c S p n) = .next (State.mk c (edge inp S) p n) := by
  obtain ⟨rst, valid, op, strobe, pins⟩ := inp
  cases rst <;> cases valid <;> cases strobe <;>
    simp [clockEdge, commandHalf, captureHalf, edge, exec_eq_effect]

/-- Every step answers a next state: the parameters as they were, the edge's block state, the step's inputs used up. -/
theorem step_eq_edge (s : State) : step s = .next (State.mk s.cfg (edge s.nextInputs s.block) s.pending.tail s.nextDraws) :=
  clockEdge_eq_edge s.nextInputs s.block s.pending.tail s.nextDraws

theorem step_listed (inp : Inputs c) (S : Block c) (rest : List (Inputs c)) (n : Nat) :
    step (State.mk c S (inp :: rest) n) = .next (State.mk c (edge inp S) rest n) := step_eq_edge _

theorem step_free (S : Block c) (n : Nat) :
    step (State.mk c S [] n) = .next (State.mk c (edge (Config.freeInputs c n) S) [] (n + 1)) := step_eq_edge _

/-! ### Runs -/

/-- The edges of a run, in order. -/
def edges : List (Inputs c) → Block c → Block c
  | [], s => s
  | x :: xs, s => edges xs (edge x s)

@[simp] theorem edges_nil (s : Block c) : edges [] s = s := rfl
@[simp] theorem edges_cons (x : Inputs c) (xs : List (Inputs c)) (s : Block c) : edges (x :: xs) s = edges xs (edge x s) := rfl

theorem edges_append (xs ys : List (Inputs c)) (s : Block c) : edges (xs ++ ys) s = edges ys (edges xs s) := by
  induction xs generalizing s with
  | nil => rfl
  | cons x xs ih => exact ih _

/-- A run of any machine steps once and runs on. -/
theorem coreRun_succ (M : Host.Core) (k : Nat) (s t : M.State) (h : M.step s = .next t) : M.run (k + 1) s = M.run k t := by
  rw [Host.Core.run, h]

theorem run_succ (k : Nat) (s t : State) (h : step s = .next t) :
    Host.Core.run Sys2Proof.core (k + 1) s = Host.Core.run Sys2Proof.core k t :=
  coreRun_succ Sys2Proof.core k s t h

/-- The machine's steps with the inputs `xs` listed are the edges with these inputs. -/
theorem run_edges (xs : List (Inputs c)) (s : Block c) : Run xs s (edges xs s) := by
  intro later n
  induction xs generalizing s with
  | nil => rfl
  | cons x xs ih => exact (run_succ _ _ _ (step_listed x s (xs ++ later) n)).trans (ih _)

/-- A run ends in exactly one state. -/
theorem run_iff (xs : List (Inputs c)) (s t : Block c) : Run xs s t ↔ t = edges xs s := by
  constructor
  · intro h
    have e := (h [] 0).symm.trans (run_edges xs s [] 0)
    injection e with e
    injection e
  · rintro rfl
    exact run_edges xs s

theorem run_exists (xs : List (Inputs c)) (s : Block c) : ∃ t, Run xs s t := ⟨_, run_edges xs s⟩

/-- The last step of a run that has one more. -/
theorem run_snoc (xs : List (Inputs c)) (x : Inputs c) (s t : Block c) :
    Run (xs ++ [x]) s t ↔ t = edge x (edges xs s) := by
  rw [run_iff, edges_append]; rfl

/-! ### The edges of steps built from parts -/

theorem edge_command (op : Opcode c) (cap : Option (Levels c)) (s : Block c) :
    edge (inputsOf (some op) cap false) s = (effect (decodeCommand c op) s).withCapture cap := by
  cases cap <;> rfl

theorem edge_idle (cap : Option (Levels c)) (s : Block c) : edge (inputsOf none cap false) s = s.noResponse.withCapture cap := by
  cases cap <;> rfl

theorem edge_reset (op : Option (Opcode c)) (cap : Option (Levels c)) (s : Block c) :
    edge (inputsOf op cap true) s = Block.resetState c := rfl

@[simp] theorem withCapture_none (s : Block c) : s.withCapture none = s := rfl
@[simp] theorem withCapture_some (s : Block c) (pins : Levels c) : s.withCapture (some pins) = s.capture pins := rfl

end Sys2Proof.Machine
end

