-- ==== Sys2Proof/Laws/Claims.lean ====
section
/-! SUPPORT. The edge field by field, and the terms of Safety.lean in terms of the ports: what later proofs cite instead of
splitting a step's cases again. -/

namespace Sys2Proof.Machine

variable {c : Config}

/-! ### The terms of Safety.lean -/

theorem command?_iff (x : Inputs c) (i : Instr) :
    command? x = some i ↔ x.rst = false ∧ x.cmdValid = true ∧ decodeCommand c x.cmdOp = i := by
  unfold command?
  split <;> simp_all

theorem captured?_none (x : Inputs c) : captured? x = none ↔ x.rst = true ∨ x.capStrobe = false := by
  unfold captured?
  cases x.rst <;> cases x.capStrobe <;> simp

theorem captured?_some (x : Inputs c) (p : Levels c) :
    captured? x = some p ↔ x.rst = false ∧ x.capStrobe = true ∧ x.capPins = p := by
  unfold captured?
  cases x.rst <;> cases x.capStrobe <;> simp

theorem presents_iff (n built : Nat) (x : Inputs c) :
    presents n built x = true ↔ x.cmdValid = true ∧ x.cmdOp.toNat = n ∧ built ≤ c.nTrackers := by
  simp [presents]

theorem isUpdate_iff (t : TrackerId) (x : Inputs c) : IsUpdate t x ↔ x.rst = false ∧ presentsUpdate t x = true := by
  cases t <;> simp [IsUpdate, updateOf, command?_iff, presentsUpdate, presents_iff, decodeCommand_eq_iff]

theorem isQuery_iff (t : TrackerId) (x : Inputs c) : IsQuery t x ↔ x.rst = false ∧ presentsQuery t x = true := by
  cases t
  · simp [IsQuery, command?_iff, presentsQuery, presents_iff, decodeCommand_eq_iff]
    tauto
  · simp [IsQuery, command?_iff, presentsQuery, presents_iff, decodeCommand_eq_iff]

theorem isPoll_iff (x : Inputs c) : IsPoll x ↔ x.rst = false ∧ presentsPoll x = true := by
  simp [IsPoll, isUpdate_iff, command?_iff, presentsPoll, presentsUpdate, presents_iff, decodeCommand_eq_iff]
  tauto

/-- A step presents an UPDATE only of a tracker that is built. -/
theorem built_of_presentsUpdate {t : TrackerId} {x : Inputs c} (h : presentsUpdate t x = true) : t.built c = true := by
  cases t <;> simp [presentsUpdate, presents_iff] at h <;> simp [h]

/-- One command is not both an UPDATE and a query of the same tracker. -/
theorem presentsQuery_of_update (t : TrackerId) (x : Inputs c) (h : presentsUpdate t x = true) :
    presentsQuery t x = false := by
  cases t <;> simp only [presentsUpdate, presents_iff] at h <;> simp [presentsQuery, presents, h.2.1]

/-- The state right after reset holds the block's reset state at the default parameters (10_state.md R31). -/
theorem reset_block : @Eq (Block Config.default) State.reset.block (Block.resetState Config.default) := rfl

/-! ### The edge, field by field -/

theorem effect_L (i : Instr) (hi : i.isCommand = true) (s : Block c) : (effect i s).L = s.L := by
  cases i <;> first | rfl | cases hi

theorem edge_L (x : Inputs c) (s : Block c) :
    (edge x s).L = if x.rst then c.resetLevels else if x.capStrobe then x.capPins else s.L := by
  have h := effect_L _ (decodeCommand_isCommand c x.cmdOp) s
  cases hr : x.rst <;> cases hv : x.cmdValid <;> cases hs : x.capStrobe <;> simp [edge, hr, hv, hs, h]

theorem effect_CF (op : Opcode c) (s : Block c) : (effect (decodeCommand c op) s).CF =
    if op.toNat = 0x2 ∨ (op.toNat = 0x3 ∧ 1 ≤ c.nTrackers) ∨ (op.toNat = 0x6 ∧ 2 ≤ c.nTrackers) then false else s.CF := by
  have hi := decodeCommand_eq_iff c op
  split
  · rename_i h
    obtain h | h | h := h
    · rw [hi.2.2.1.2 h]; rfl
    · rw [hi.2.2.2.1.2 h]; rfl
    · rw [hi.2.2.2.2.2.2.1.2 h]; rfl
  · rename_i h
    rw [← hi.2.2.1, ← hi.2.2.2.1, ← hi.2.2.2.2.2.2.1] at h
    have hc := decodeCommand_isCommand c op
    cases he : decodeCommand c op <;> rw [he] at h hc <;> first | rfl | exact absurd hc Bool.false_ne_true | simp at h

theorem edge_CF (x : Inputs c) (s : Block c) :
    (edge x s).CF = if x.rst then false else if x.capStrobe then true else if presentsPoll x then false else s.CF := by
  have hp : presentsPoll x = true ↔ x.cmdValid = true ∧
      (x.cmdOp.toNat = 0x2 ∨ (x.cmdOp.toNat = 0x3 ∧ 1 ≤ c.nTrackers) ∨ (x.cmdOp.toNat = 0x6 ∧ 2 ≤ c.nTrackers)) := by
    simp [presentsPoll, presents_iff]; tauto
  have h := effect_CF x.cmdOp s
  cases hr : x.rst <;> cases hv : x.cmdValid <;> cases hs : x.capStrobe <;> simp [edge, hr, hv, hs, hp, h]

/-- The queries of a tracker (41_debounce_trackers.md R102). -/
def queriesOf : TrackerId → List Instr
  | .rot => [.rotCw, .rotPress]
  | .snz => [.snzPress]

/-- What a decoded command makes of a tracker's record: its UPDATE and its queries write it, every other command leaves
it alone. -/
theorem effect_tracker (t : TrackerId) (op : Opcode c) (s : Block c) :
    (effect (decodeCommand c op) s).tracker t =
      if decodeCommand c op = updateOf t then { prev := s.L, rc := relevantChange s.CF (watchMask c t) s.L (s.tracker t).prev }
      else if decodeCommand c op ∈ queriesOf t then { prev := (s.tracker t).prev, rc := false }
      else s.tracker t := by
  have hr : 1 ≤ c.nTrackers → TrackerId.rot.built c = true := (rot_built_iff c).2
  have hz : 2 ≤ c.nTrackers → TrackerId.snz.built c = true := (snz_built_iff c).2
  obtain ⟨_, h⟩ | ⟨_, h⟩ | ⟨_, h⟩ | ⟨_, hb, h⟩ | ⟨_, hb, h⟩ | ⟨_, hb, h⟩ | ⟨_, hb, h⟩ | ⟨_, hb, h⟩ | ⟨_, h⟩ :=
    decodeCommand_cases c op <;> rw [h] <;> cases t <;> simp only [updateOf, queriesOf]
  all_goals
    first
    | exact Block.tracker_setTracker_self _ (hr hb) _
    | exact Block.tracker_setTracker_self _ (hz hb) _
    | exact Block.setTracker_rot_snz _ _
    | exact Block.setTracker_snz_rot _ _
    | rfl

theorem edge_tracker (t : TrackerId) (x : Inputs c) (s : Block c) :
    (edge x s).tracker t =
      if x.rst then { prev := c.resetLevels, rc := false }
      else if presentsUpdate t x then
        { prev := s.L, rc := relevantChange s.CF (watchMask c t) s.L (s.tracker t).prev }
      else if presentsQuery t x then { prev := (s.tracker t).prev, rc := false }
      else s.tracker t := by
  have hu : presentsUpdate t x = true ↔ x.cmdValid = true ∧ decodeCommand c x.cmdOp = updateOf t := by
    cases t <;> simp [updateOf, presentsUpdate, presents_iff, decodeCommand_eq_iff]
  have hq : presentsQuery t x = true ↔ x.cmdValid = true ∧ decodeCommand c x.cmdOp ∈ queriesOf t := by
    cases t <;> simp [queriesOf, presentsQuery, presents_iff, decodeCommand_eq_iff]
    tauto
  have h := effect_tracker t x.cmdOp s
  cases hr : x.rst <;> cases hv : x.cmdValid <;> cases hs : x.capStrobe <;> simp [edge, hr, hv, hs, hu, hq, h]

/-- A step with a tracker's UPDATE, whatever its capture port carries (41_debounce_trackers.md R103, 20_memory.md R45). -/
theorem edge_update_tracker {t : TrackerId} {op : Opcode c} (h : decodeCommand c op = updateOf t) (cap : Option (Levels c))
    (s : Block c) : (edge (inputsOf (some op) cap false) s).tracker t =
      { prev := s.L, rc := relevantChange s.CF (watchMask c t) s.L (s.tracker t).prev } := by
  have hu : presentsUpdate t (inputsOf (some op) cap false) = true :=
    ((isUpdate_iff t _).1 ((command?_iff _ _).2 ⟨rfl, rfl, h⟩)).2
  rw [edge_tracker, hu]
  rfl

/-- A query of an Idle tracker answers 0, whatever its test (41_debounce_trackers.md R102). -/
theorem query_idle {s : Block c} {t : TrackerId} (h : (s.tracker t).rc = false) (test : Levels c → Bool) :
    (s.query t test).respData = answer c false := by
  rw [Block.query_eq]
  simp [singleShot_idle h, answer]

/-- No instruction writes a record beyond the two that have commands. -/
theorem effect_others (i : Instr) (s : Block c) (k : Nat) (hk : k < c.nTrackers) (h2 : 2 ≤ k) :
    (effect i s).trackers[k] = s.trackers[k] := by
  cases i <;> first | rfl | exact Block.setTracker_others _ _ _ k hk h2

theorem edge_others (x : Inputs c) (s : Block c) (k : Nat) (hk : k < c.nTrackers) (h2 : 2 ≤ k) :
    (edge x s).trackers[k] = if x.rst then { prev := c.resetLevels, rc := false } else s.trackers[k] := by
  have h := effect_others (decodeCommand c x.cmdOp) s k hk h2
  cases hr : x.rst <;> cases hv : x.cmdValid <;> cases hs : x.capStrobe <;> simp [edge, hr, hv, hs, h]

/-- An edge's response is the one of 30_encoding.md R66 and R67. -/
theorem edge_outputs (x : Inputs c) (s : Block c) :
    (edge x s).outputs = tabledResponse x s.L s.CF (s.tracker .rot) (s.tracker .snz) := by
  have ho : (edge x s).outputs = if x.rst || !x.cmdValid then { respValid := false, respData := 0#c.respWidth, respErr := false }
      else (effect (decodeCommand c x.cmdOp) s).outputs := by
    cases hr : x.rst <;> cases hv : x.cmdValid <;> cases hs : x.capStrobe <;> simp [edge, hr, hv, hs] <;> rfl
  rw [ho]
  unfold tabledResponse
  split
  · rfl
  · rename_i h
    have hv : x.cmdValid = true := by cases hv : x.cmdValid <;> simp_all
    obtain ⟨hn, h⟩ | ⟨hn, h⟩ | ⟨hn, h⟩ | ⟨hn, hb, h⟩ | ⟨hn, hb, h⟩ | ⟨hn, hb, h⟩ | ⟨hn, hb, h⟩ | ⟨hn, hb, h⟩ | ⟨hr, h⟩ :=
      decodeCommand_cases c x.cmdOp <;> rw [h]
    case inr.inr.inr.inr.inr.inr.inr.inr =>
      have hd : ∃ n, x.cmdOp.toNat = n := ⟨_, rfl⟩
      obtain ⟨n, hn⟩ := hd
      have hr' := hr
      rw [hn] at hr
      unfold reservedOpcode at hr
      split at hr <;> simp_all [presents, effect, Block.outputs, ← Bool.not_eq_true]
    all_goals
      have hrot := rot_built_iff c
      have hsnz := snz_built_iff c
      simp_all [presents, effect, Block.outputs, reservedOpcode, Block.update_eq, Block.query_eq, zext_eq, answer, singleShot,
        phase_eq, rotaryPressed_eq, snoozePressed_eq]

end Sys2Proof.Machine
end

