-- ==== Sys2Proof/Laws/PerInstr.lean ====
section
/-! SUPPORT. The family RoundTrip: a well-formed instruction's word decodes to it, one lemma per constructor. -/

/-- Decoding the word of `i` gives `i` back, in a block with any parameters (30_encoding.md R62, R63, R64). -/
def Sys2Proof.Laws.RoundTrip.Statement (i : Sys2Proof.Instr) : Prop :=
  ∀ c : Sys2Proof.Config, i.wellFormed c = true → Sys2Proof.decode c (Sys2Proof.encode c i) = .ok i

namespace Sys2Proof.Laws

/-- The word of a defined opcode has its number. -/
theorem RoundTrip.toNat_commandWord {c : Config} {n : Nat} (h : definedOpcode c n = true) :
    (BitVec.ofNat c.opcodeWidth n).toNat = n ∧ reservedOpcode c n = false := by
  simp only [definedOpcode, Bool.and_eq_true, decide_eq_true_eq, Bool.not_eq_true'] at h
  exact ⟨by rw [BitVec.toNat_ofNat, Nat.mod_eq_of_lt h.1], h.2⟩

theorem RoundTrip.nop : RoundTrip.Statement .nop := fun c h =>
  congrArg Except.ok ((decodeCommand_eq_iff c _).1.2 (toNat_commandWord h).1)

theorem RoundTrip.snapshot : RoundTrip.Statement .snapshot := fun c h =>
  congrArg Except.ok ((decodeCommand_eq_iff c _).2.1.2 (toNat_commandWord h).1)

theorem RoundTrip.consumeChanged : RoundTrip.Statement .consumeChanged := fun c h =>
  congrArg Except.ok ((decodeCommand_eq_iff c _).2.2.1.2 (toNat_commandWord h).1)

/-- The opcode of a tracker's command is a defined one only where the tracker is built. -/
theorem RoundTrip.rot_built {c : Config} {n : Nat} (hn : n = 3 ∨ n = 4 ∨ n = 5) (h : definedOpcode c n = true) : 1 ≤ c.nTrackers := by
  have hr := (toNat_commandWord h).2
  rw [← rot_built_iff]
  obtain rfl | rfl | rfl := hn <;> simpa [reservedOpcode] using hr

theorem RoundTrip.snz_built {c : Config} {n : Nat} (hn : n = 6 ∨ n = 7) (h : definedOpcode c n = true) : 2 ≤ c.nTrackers := by
  have hr := (toNat_commandWord h).2
  rw [← snz_built_iff]
  obtain rfl | rfl := hn <;> simpa [reservedOpcode] using hr

theorem RoundTrip.rotUpdate : RoundTrip.Statement .rotUpdate := fun c h =>
  congrArg Except.ok ((decodeCommand_eq_iff c _).2.2.2.1.2 ⟨(toNat_commandWord h).1, rot_built (.inl rfl) h⟩)

theorem RoundTrip.rotCw : RoundTrip.Statement .rotCw := fun c h =>
  congrArg Except.ok ((decodeCommand_eq_iff c _).2.2.2.2.1.2 ⟨(toNat_commandWord h).1, rot_built (.inr (.inl rfl)) h⟩)

theorem RoundTrip.rotPress : RoundTrip.Statement .rotPress := fun c h =>
  congrArg Except.ok ((decodeCommand_eq_iff c _).2.2.2.2.2.1.2 ⟨(toNat_commandWord h).1, rot_built (.inr (.inr rfl)) h⟩)

theorem RoundTrip.snzUpdate : RoundTrip.Statement .snzUpdate := fun c h =>
  congrArg Except.ok ((decodeCommand_eq_iff c _).2.2.2.2.2.2.1.2 ⟨(toNat_commandWord h).1, snz_built (.inl rfl) h⟩)

theorem RoundTrip.snzPress : RoundTrip.Statement .snzPress := fun c h =>
  congrArg Except.ok ((decodeCommand_eq_iff c _).2.2.2.2.2.2.2.2 ⟨(toNat_commandWord h).1, snz_built (.inr rfl) h⟩)

theorem RoundTrip.reserved (op : Bits) : RoundTrip.Statement (.reserved op) := by
  intro c h
  obtain ⟨w, v⟩ := op
  simp only [Instr.wellFormed, Bool.and_eq_true, decide_eq_true_eq] at h
  obtain ⟨rfl, hr⟩ := h
  simp [decode, encode, decodeCommand_reserved c v hr]

theorem RoundTrip.capture (pins : Bits) : RoundTrip.Statement (.capture pins) := by
  intro c h
  obtain ⟨n, v⟩ := pins
  simp only [Instr.wellFormed, decide_eq_true_eq] at h
  subst h
  simp [decode, encode]

end Sys2Proof.Laws
end

