-- ==== Sys2Proof/Tests/Slice0.lean ====
section
/-! SUPPORT. Tests with results taken from the spec (95_test_vectors.md where a vector is named), and for every statement
with hypotheses a witness that meets them. -/

namespace Sys2Proof.Machine.Tests

/-- The block of the vectors: every parameter at its default. -/
abbrev D : Config := Config.default

/-- A block of other parameters: five levels, rotaryA on the fifth, the first wired to no line and watched by the snooze
tracker; three trackers; five opcode bits; six response bits. -/
abbrev wide : Config :=
  { nLevels := 5
    nTrackers := 3
    opcodeWidth := 5
    respWidth := 6
    lines := { rotaryA := 4, rotaryB := 1, rotaryButton := 2, snoozeButton := 3 }
    rotWatch := 0b10110#5
    snzWatch := 0b01001#5
    resetLevels := 0b11111#5 }

/-- A block with the rotary tracker alone and fewer response bits than levels. -/
abbrev narrow : Config := { Config.default with nTrackers := 1, respWidth := 2 }

/-! ### WellFormed: an ill-formed term is refused -/

theorem test_wellFormed_reserved_needs_top_bit : (Instr.reserved ⟨4, 0x7#4⟩).wellFormed D = false := by decide
theorem test_wellFormed_reserved_bounds : (Instr.reserved ⟨4, 0x8#4⟩).wellFormed D = true ∧ (Instr.reserved ⟨4, 0xF#4⟩).wellFormed D = true := by decide
theorem test_wellFormed_reserved_width : (Instr.reserved ⟨5, 0x8#5⟩).wellFormed D = false := by decide
theorem test_wellFormed_capture_width : (Instr.capture ⟨5, 0x0#5⟩).wellFormed D = false ∧ (Instr.capture ⟨5, 0x0#5⟩).wellFormed wide = true := by decide
theorem test_wellFormed_tracker_built : Instr.snzPress.wellFormed narrow = false ∧ Instr.rotCw.wellFormed narrow = true := by decide

/-! ### Decoding, the words written out from 30_encoding.md R62 and R64 (95_test_vectors.md 2.1) -/

theorem test_decode_nop : decode D (.command 0b0000#4) = .ok .nop := rfl
theorem test_decode_snapshot : decode D (.command 0b0001#4) = .ok .snapshot := rfl
theorem test_decode_consumeChanged : decode D (.command 0b0010#4) = .ok .consumeChanged := rfl
theorem test_decode_rotUpdate : decode D (.command 0b0011#4) = .ok .rotUpdate := rfl
theorem test_decode_rotCw : decode D (.command 0b0100#4) = .ok .rotCw := rfl
theorem test_decode_rotPress : decode D (.command 0b0101#4) = .ok .rotPress := rfl
theorem test_decode_snzUpdate : decode D (.command 0b0110#4) = .ok .snzUpdate := rfl
theorem test_decode_snzPress : decode D (.command 0b0111#4) = .ok .snzPress := rfl
theorem test_decode_reserved : decode D (.command 0b1000#4) = .ok (.reserved ⟨4, 0x8#4⟩) ∧
    decode D (.command 0b1111#4) = .ok (.reserved ⟨4, 0xF#4⟩) := ⟨rfl, rfl⟩
/-- P1 step 5: `capture 0b1101` is the bundle 11101. -/
theorem test_decode_capture : decode D (.bundle 0b11101#5) = .ok (.capture ⟨4, 0b1101#4⟩) := rfl
theorem test_decode_noEvent : decode D (.bundle 0b01101#5) = .error (.noEvent 0b01101#5) := rfl
theorem test_decodeTable_noPort : decodeTable D 0x20 = .error (.noPort 0x20) := rfl
/-- The rows' numbers in spec/opcode_table.json, in whole bytes. -/
theorem test_decodeTableWord : decodeTableWord 8 0x4 = some .rotCw ∧ decodeTableWord 8 0x8 = some (.reserved ⟨4, 0x8#4⟩) ∧
    decodeTableWord 8 0x10 = some (.capture ⟨4, 0b0000#4⟩) ∧ decodeTableWord 8 0x1F = some (.capture ⟨4, 0b1111#4⟩) ∧
    decodeTableWord 8 0x20 = none := by decide
/-- R62's map at five opcode bits, and the opcode of a tracker that is not built (log entries 4 and 15). -/
theorem test_decode_otherWidths : decode wide (.command 0b00111#5) = .ok .snzPress ∧
    decode wide (.command 0b10111#5) = .ok (.reserved ⟨5, 0b10111#5⟩) ∧ decode narrow (.command 0x6#4) = .ok (.reserved ⟨4, 0x6#4⟩) ∧
    decode wide (.bundle 0b110001#6) = .ok (.capture ⟨5, 0b10001#5⟩) := ⟨rfl, rfl, rfl, rfl⟩

/-! ### The listing syntax (30_encoding.md R69) -/

/-- P2 step 2, `consume | capture 0b1100`. -/
theorem test_listing_consume_capture : listingLine D [["consume"], ["capture", "0b1100"]] =
    some { rst := false, cmdValid := true, cmdOp := 0x2#4, capStrobe := true, capPins := 0b1100#4 } := by decide
/-- P4 step 4, `rot.update | capture 0b0111 | rst`, and step 0, `rst`. -/
theorem test_listing_reset : assemble D [[["rot.update"], ["capture", "0b0111"], ["rst"]], [["rst"]]] =
    some [{ rst := true, cmdValid := true, cmdOp := 0x3#4, capStrobe := true, capPins := 0b0111#4 },
      { rst := true, cmdValid := false, cmdOp := 0x0#4, capStrobe := false, capPins := 0b0000#4 }] := by decide
theorem test_listing_refuses : listingLine D [["poll"]] = none ∧ listingLine D [["rsv", "0x7"]] = none := by decide

/-! ### The parameters fix the widths and masks the types and R6 give -/

theorem test_parameters_default : Config.default =
    { nLevels := 4
      nTrackers := 2
      opcodeWidth := 4
      respWidth := 4
      lines := { rotaryA := 0, rotaryB := 1, rotaryButton := 2, snoozeButton := 3 }
      rotWatch := 0b0111#4
      snzWatch := 0b1000#4
      resetLevels := 0b0000#4 } := rfl
theorem test_parameters_widths : Levels D = BitVec 4 ∧ Opcode D = BitVec 4 ∧ RespData D = BitVec 4 ∧ Bundle D = BitVec 5 ∧
    DefaultLines D := ⟨rfl, rfl, rfl, rfl, fun l => by cases l <;> rfl⟩
theorem test_pinsOf_order : pinsOf D (fun l => match l with
    | .rotaryA => true
    | .rotaryB => false
    | .rotaryButton => true
    | .snoozeButton => false) = 0b0101#4 := by decide

/-! ### One step of each command, on small states

`st L CF prev rc prev rc` is the vectors' `(L, CF | ROT.prev, ROT.rc | SNZ.prev, SNZ.rc)`, with the default parameters. -/

/-- A state of 95_test_vectors.md, with no response. -/
def st (l : Levels D) (cf : Bool) (rp : Levels D) (rr : Bool) (sp : Levels D) (sr : Bool) : Block D :=
  { L := l, CF := cf, trackers := #v[⟨rp, rr⟩, ⟨sp, sr⟩], respValid := false, respData := 0b0000#4, respErr := false }

/-- A state with a response `(resp_valid, resp_data, resp_err)`. -/
def answering {c : Config} (s : Block c) (v : Bool) (d : RespData c) (e : Bool) : Block c :=
  { s with respValid := v, respData := d, respErr := e }

/-- The machine with the block state `s` and the inputs `xs` listed. -/
def on {c : Config} (s : Block c) (xs : List (Inputs c)) : State := { cfg := c, block := s, pending := xs, draws := 0 }

/-- The state after one step, with a command, a capture and a reset each optional. -/
def after {c : Config} (s : Block c) (op : Option (Opcode c)) (cap : Option (Levels c)) (rst : Bool) : Option State :=
  match step (on s [inputsOf op cap rst]) with
  | .next t => some t
  | .fault _ => none
  | .refused _ => none

/-- T3-5. -/
theorem test_nop_T3_5 : after (st 0b0000 false 0b0000 false 0b0000 false) (some 0x0) (some 0b0110) false =
    some (on (answering (st 0b0110 true 0b0000 false 0b0000 false) true 0b0000 false) []) := by decide
/-- T3-6. -/
theorem test_reserved_T3_6 : after (st 0b0000 false 0b0000 false 0b0000 false) (some 0xC) (some 0b0110) false =
    some (on (answering (st 0b0110 true 0b0000 false 0b0000 false) true 0b0000 true) []) := by decide
/-- T1-4: the pre-capture levels. -/
theorem test_snapshot_T1_4 : after (st 0b1010 false 0b0000 false 0b0000 false) (some 0x1) (some 0b1111) false =
    some (on (answering (st 0b1111 true 0b0000 false 0b0000 false) true 0b1010 false) []) := by decide
/-- T1-7 and T1-8: the capture's set is not lost to the same step's clear. -/
theorem test_consume_T1_7 : after (st 0b1010 true 0b0000 false 0b0000 false) (some 0x2) (some 0b0000) false =
    some (on (answering (st 0b0000 true 0b0000 false 0b0000 false) true 0b0001 false) []) := by decide
theorem test_consume_T1_8 : after (st 0b1010 false 0b0000 false 0b0000 false) (some 0x2) (some 0b0000) false =
    some (on (answering (st 0b0000 true 0b0000 false 0b0000 false) true 0b0000 false) []) := by decide
/-- T1-2: the same levels still set the flag, and an idle step answers nothing. -/
theorem test_capture_T1_2 : after (answering (st 0b0101 false 0b0000 false 0b0000 false) true 0b0001 false) none (some 0b0101) false =
    some (on (st 0b0101 true 0b0000 false 0b0000 false) []) := by decide
/-- T2-3: a snooze-only change is no rotary change, and consumes the flag. -/
theorem test_rotUpdate_T2_3 : after (st 0b1000 true 0b0000 false 0b0000 false) (some 0x3) none false =
    some (on (answering (st 0b1000 false 0b1000 false 0b0000 false) true 0b0000 false) []) := by decide
/-- T2-6: a capture beside the UPDATE is not seen by it. -/
theorem test_rotUpdate_T2_6 : after (st 0b0001 true 0b0000 false 0b0000 false) (some 0x3) (some 0b0011) false =
    some (on (answering (st 0b0011 true 0b0001 true 0b0000 false) true 0b0000 false) []) := by decide
/-- T2-10: A = B answers 0 and still clears. -/
theorem test_rotCw_T2_10 : after (st 0b0000 false 0b0011 true 0b0000 true) (some 0x4) none false =
    some (on (answering (st 0b0000 false 0b0011 false 0b0000 true) true 0b0000 false) []) := by decide
/-- T2-12: only B high. -/
theorem test_rotCw_T2_12 : after (st 0b0000 false 0b0010 true 0b0000 true) (some 0x4) none false =
    some (on (answering (st 0b0000 false 0b0010 false 0b0000 true) true 0b0001 false) []) := by decide
/-- T2-14: button low. -/
theorem test_rotPress_T2_14 : after (st 0b1111 true 0b0001 true 0b0000 true) (some 0x5) none false =
    some (on (answering (st 0b1111 true 0b0001 false 0b0000 true) true 0b0001 false) []) := by decide
/-- T2-15: button high, a release. -/
theorem test_rotPress_T2_15 : after (st 0b0000 false 0b0100 true 0b0000 true) (some 0x5) none false =
    some (on (answering (st 0b0000 false 0b0100 false 0b0000 true) true 0b0000 false) []) := by decide
/-- T2-17: only A changed. -/
theorem test_snzUpdate_T2_17 : after (st 0b1101 true 0b0000 true 0b1100 false) (some 0x6) none false =
    some (on (answering (st 0b1101 false 0b0000 true 0b1101 false) true 0b0000 false) []) := by decide
/-- T2-18: snooze pressed. -/
theorem test_snzUpdate_T2_18 : after (st 0b0100 true 0b0000 true 0b1100 false) (some 0x6) none false =
    some (on (answering (st 0b0100 false 0b0000 true 0b0100 true) true 0b0000 false) []) := by decide
/-- T2-19: snooze low. -/
theorem test_snzPress_T2_19 : after (st 0b1111 true 0b0000 true 0b0100 true) (some 0x7) none false =
    some (on (answering (st 0b1111 true 0b0000 true 0b0100 false) true 0b0001 false) []) := by decide
/-- T2-20: a release. -/
theorem test_snzPress_T2_20 : after (st 0b0000 false 0b0000 true 0b1100 true) (some 0x7) none false =
    some (on (answering (st 0b0000 false 0b0000 true 0b1100 false) true 0b0000 false) []) := by decide
/-- T4-1: reset discards the command and the capture. -/
theorem test_reset_T4_1 : after (answering (st 0b1111 true 0b0001 true 0b0000 true) true 0b0001 true) (some 0x4) (some 0b0111) true =
    some State.reset := by decide
/-- T3-4: an idle step on a state with a response. -/
theorem test_idle_T3_4 : after (answering (st 0b1010 true 0b0001 true 0b0100 true) true 0b0001 false) none none false =
    some (on (st 0b1010 true 0b0001 true 0b0100 true) []) := by decide
/-- The word 0x4 as the first instruction after reset, and a capture word. -/
theorem test_withFetchWord : step (State.reset.withFetchWord 8 0x4) = exec .rotCw State.reset ∧
    step (State.reset.withFetchWord 8 0x1D) = exec (.capture ⟨4, 0b1101#4⟩) State.reset := ⟨rfl, rfl⟩

/-! ### The same rules at other parameters (00_scope.md R6) -/

/-- A state of a block with the parameters `wide`, the rotary tracker's record given. -/
def wideState (k : Tracker wide) : Block wide :=
  { L := 0b01111#5, CF := true, trackers := #v[k, ⟨0#5, false⟩, ⟨0#5, true⟩], respValid := false, respData := 0#6, respErr := false }

/-- R170 at `wide`: five level bits of RESET_LEVELS in `L` and in all three trackers. -/
theorem test_wide_reset : after (wideState ⟨0#5, true⟩) (some 0x3) none true =
    some (on (c := wide) ⟨0b11111#5, false, #v[⟨0b11111#5, false⟩, ⟨0b11111#5, false⟩, ⟨0b11111#5, false⟩], false, 0#6, false⟩ []) := by
  decide
/-- R104 at `wide`: the mask ROT_WATCH = 0b10110 sees the bits 1 and 2 change; the third tracker is left alone. -/
theorem test_wide_rotUpdate : after (wideState ⟨0#5, false⟩) (some 0b00011#5) none false =
    some (on (answering { wideState ⟨0b01111#5, true⟩ with CF := false } true 0#6 false) []) := by decide
/-- R105 at `wide`: A is bit 4 and B is bit 1. -/
theorem test_wide_rotCw : after (wideState ⟨0b10001#5, true⟩) (some 0b00100#5) none false =
    some (on (answering (wideState ⟨0b10001#5, false⟩) true 0b000001#6 false) []) := by decide
/-- R81 and R67 at `wide`: bit i of the data is `S.L[i]`, and the sixth bit is zero. -/
theorem test_wide_snapshot : after (wideState ⟨0#5, false⟩) (some 0b00001#5) none false =
    some (on (answering (wideState ⟨0#5, false⟩) true 0b001111#6 false) []) := by decide

/-! ### Witnesses: for each statement with hypotheses, states and inputs that meet them -/

/-- A state in which every flag is set. -/
def busyBlock : Block D := answering (st 0b1101 true 0b0001 true 0b0100 true) true 0b0001 false

/-- The machine in that state, with a step listed. -/
def busy : State := on busyBlock [default]

theorem witness_OpcodeMapIsAsTheTableSays : (0x8#4 : Opcode D).getLsbD 3 = true ∧ (0xF#4 : Opcode D).getLsbD 3 = true ∧
    (0x0#4 : Opcode D).getLsbD 3 = false ∧ (0x7#4 : Opcode D).getLsbD 3 = false := by decide

/-- Each number at a width of its own, in blocks with no tracker, one and three. -/
theorem witness_OpcodeMapHoldsAtEveryWidth : (0x7#5 : Opcode wide).toNat = 0x7 ∧ 2 ≤ wide.nTrackers ∧
    (0x5#4 : Opcode narrow).toNat = 0x5 ∧ 1 ≤ narrow.nTrackers ∧ 0x8 ≤ (0x8#5 : Opcode wide).toNat ∧
    (narrow.nTrackers < 2 ∧ 0x6 ≤ (0x6#4 : Opcode narrow).toNat ∧ (0x6#4 : Opcode narrow).toNat ≤ 0x7) ∧
    ({ Config.default with nTrackers := 0 } : Config).nTrackers < 1 := by decide

theorem witness_CaptureBundleCarriesTheFourLevels : (0b10000#5 : Bundle D).getLsbD 4 = true ∧ (0b11111#5 : Bundle D).getLsbD 4 = true ∧
    (0b01111#5 : Bundle D).getLsbD 4 = false ∧ DefaultLines D := ⟨rfl, rfl, rfl, fun l => by cases l <;> rfl⟩

theorem witness_DecodeOfEncodeIsTheInstruction : (Instr.reserved ⟨4, 0x8#4⟩).wellFormed D = true ∧ Instr.rotCw.wellFormed D = true ∧
    (Instr.capture ⟨4, 0b1111#4⟩).wellFormed D = true ∧ D.opcodeWidth ≤ D.nLevels ∧ Instr.snzPress.wellFormed wide = true ∧
    wide.opcodeWidth ≤ wide.nLevels := by decide

theorem witness_EncodeOfDecodeIsTheWord : decode D (.command 0xF#4) = .ok (.reserved ⟨4, 0xF#4⟩) ∧
    decode D (.bundle 0b10000#5) = .ok (.capture ⟨4, 0b0000#4⟩) := ⟨rfl, rfl⟩

theorem witness_ListingLinesStandForTheirInputs : listingCommand ["rsv", "0xF"] = some (some 0xF) ∧
    listingCommand ["-"] = some none := by decide

/-- Inputs for each of the three clauses: a reset, a command, an idle step. -/
theorem witness_StepPerformsCommandThenCapture :
    (inputsOf (some 0x4#4) (some 0b0011#4) true : Inputs D).rst = true ∧
    (inputsOf (some 0xF#4) (some 0b0011#4) false : Inputs D).rst = false ∧
    (inputsOf (some 0xF#4) (some 0b0011#4) false : Inputs D).cmdValid = true ∧
    (inputsOf none (some 0b0011#4) false : Inputs D).rst = false ∧
    (inputsOf none (some 0b0011#4) false : Inputs D).cmdValid = false := by decide

/-- A command and a capture, at the defaults and at other widths. -/
theorem witness_PresentedWordIsTheNextInstruction : State.reset.cfg = Config.default ∧ decodeTableWord 8 0x0 = some .nop ∧
    decodeTableWord 8 0xF = some (.reserved ⟨4, 0xF#4⟩) ∧ decodeTableWord 8 0x10 = some (.capture ⟨4, 0b0000#4⟩) ∧
    decodeTableWord 8 0x1F = some (.capture ⟨4, 0b1111#4⟩) ∧ decodeTable wide (0x21 % 2 ^ 8) = .ok (.capture ⟨5, 0b00001#5⟩) :=
  ⟨rfl, by decide, by decide, by decide, by decide, rfl⟩

theorem witness_EveryCommandCompletesWithAResponse : Instr.nop.isCommand = true ∧ (Instr.reserved ⟨4, 0x8#4⟩).isCommand = true := by decide

theorem witness_ParametersAreConstantAndInputsAreUsedUp : (∃ t, step busy = .next t) ∧ ∃ t, step State.reset = .next t :=
  ⟨⟨_, rfl⟩, _, step_eq_edge _⟩

theorem witness_NopOnlyAnswers : decodeCommand D 0x0#4 = .nop ∧
    ∃ t, Run [inputsOf (some 0x0#4) (some 0b0110#4) false] busyBlock t := ⟨rfl, run_exists _ _⟩

theorem witness_ReservedOpcodesOnlyAnswerAnError : (0x8#4 : Opcode D).getLsbD 3 = true ∧ (∃ r, decodeCommand D 0x8#4 = .reserved r) ∧
    ∃ t, Run [inputsOf (some 0x8#4) none false, inputsOf (some 0x4#4) (some 0b0011#4) false] busyBlock t :=
  ⟨by decide, ⟨_, rfl⟩, run_exists _ _⟩

theorem witness_CaptureWritesLevelsAndSetsTheFlag : (∃ t, Run [inputsOf (some 0x2#4) none false] busyBlock t) ∧
    ∃ t, Run [inputsOf none (some 0b0001#4) false, inputsOf none (some 0b0010#4) false] busyBlock t :=
  ⟨run_exists _ _, run_exists _ _⟩

theorem witness_SnapshotAnswersTheLevels : D.nLevels ≤ D.respWidth ∧ decodeCommand D 0x1#4 = .snapshot ∧
    captured? (inputsOf (some 0x3#4) none false : Inputs D) = none ∧
    ∃ t, Run [inputsOf (some 0x3#4) none false] (Block.resetState D) t := ⟨by decide, rfl, by decide, run_exists _ _⟩

theorem witness_ConsumeChangedTestsAndClears : decodeCommand D 0x2#4 = .consumeChanged ∧
    (∃ t, Run [inputsOf none (some 0b0001#4) false, inputsOf (some 0x2#4) none false] busyBlock t) ∧
    (∃ t, Run [inputsOf (some 0x2#4) none false, inputsOf (some 0x2#4) none false] busyBlock t) ∧
    (∃ t, Run [inputsOf (some 0x2#4) (some 0b0001#4) false, inputsOf (some 0x2#4) none false] busyBlock t) ∧
    decodeCommand D 0x3#4 = updateOf .rot ∧ decodeCommand D 0x6#4 = updateOf .snz ∧
    ∃ t, Run [inputsOf (some 0x2#4) none false, inputsOf (some 0x6#4) none false] busyBlock t :=
  ⟨rfl, run_exists _ _, run_exists _ _, run_exists _ _, rfl, rfl, run_exists _ _⟩

theorem witness_RotUpdateComputesTheRotaryChange : decodeCommand busy.cfg 0x3#4 = .rotUpdate := rfl
theorem witness_SnzUpdateComputesTheSnoozeChange : decodeCommand busy.cfg 0x6#4 = .snzUpdate := rfl

theorem witness_UpdateIsSharedByBothTrackers : TrackerId.rot.built busy.cfg = true ∧ TrackerId.snz.built busy.cfg = true ∧
    watchMask { D with rotWatch := 0b1111#4 } .rot = BitVec.allOnes 4 ∧ TrackerId.snz ≠ TrackerId.rot := by decide

theorem witness_RotCwAnswersThePhaseOnce : DefaultLines busy.cfg ∧ decodeCommand D 0x4#4 = .rotCw ∧ decodeCommand D 0x5#4 = .rotPress ∧
    (∃ u, Run [inputsOf (some 0x4#4) none false, inputsOf (some 0x4#4) none false] busyBlock u) ∧
    ∃ u, Run [inputsOf (some 0x4#4) none false, inputsOf (some 0x5#4) none false] busyBlock u :=
  ⟨fun l => by cases l <;> rfl, rfl, rfl, run_exists _ _, run_exists _ _⟩

theorem witness_RotPressAnswersTheButtonOnce : DefaultLines busy.cfg ∧ decodeCommand D 0x5#4 = .rotPress ∧ decodeCommand D 0x4#4 = .rotCw ∧
    (∃ u, Run [inputsOf (some 0x5#4) none false, inputsOf (some 0x4#4) none false] busyBlock u) ∧
    ∃ u, Run [inputsOf (some 0x5#4) none false, inputsOf (some 0x5#4) none false] busyBlock u :=
  ⟨fun l => by cases l <;> rfl, rfl, rfl, run_exists _ _, run_exists _ _⟩

theorem witness_SnzPressAnswersTheButtonOnce : DefaultLines busy.cfg ∧ decodeCommand D 0x7#4 = .snzPress ∧
    ∃ u, Run [inputsOf (some 0x7#4) none false, inputsOf (some 0x7#4) none false] busyBlock u :=
  ⟨fun l => by cases l <;> rfl, rfl, run_exists _ _⟩

theorem witness_QueriesReadOnlyTheirTrackerAndClearIt :
    (IsQuery .rot (inputsOf (some 0x5#4) none false : Inputs D) ∧ ∃ t, Run [inputsOf (some 0x5#4) none false] busyBlock t) ∧
    ({ busyBlock with L := 0b0000#4 } : Block D).tracker .rot = busyBlock.tracker .rot ∧
    ∃ t, Run [inputsOf (some 0x5#4) none false] ({ busyBlock with L := 0b0000#4 } : Block D) t :=
  ⟨⟨.inr rfl, run_exists _ _⟩, rfl, run_exists _ _⟩

/-- The default wiring, with each of the trackers holding the pins of a burst as a reported change. -/
theorem witness_LevelsAreStoredUninvertedAndReadByLine : DistinctLines D ∧ D.nLevels ≤ D.respWidth ∧
    TrackerId.rot.built D = true ∧ TrackerId.snz.built D = true ∧
    (on (st 0b0000 false (pinsOf D (fun _ => true)) true (pinsOf D (fun _ => true)) true) []).block.tracker .rot =
      { prev := pinsOf D (fun _ => true), rc := true } ∧
    (on (st 0b0000 false (pinsOf D (fun _ => true)) true (pinsOf D (fun _ => true)) true) []).block.tracker .snz =
      { prev := pinsOf D (fun _ => true), rc := true } := ⟨by decide, by decide, by decide, by decide, rfl, rfl⟩

/-- One step for each clause: a reset, an UPDATE, a query, and a command that is neither. -/
theorem witness_TrackerTransitionsAreAsTabled :
    (∃ u, Run [inputsOf none none true] busyBlock u) ∧
    (IsUpdate .rot (inputsOf (some 0x3#4) none false : Inputs D) ∧ ∃ u, Run [inputsOf (some 0x3#4) none false] busyBlock u) ∧
    (IsQuery .snz (inputsOf (some 0x7#4) none false : Inputs D) ∧ ∃ u, Run [inputsOf (some 0x7#4) none false] busyBlock u) ∧
    (¬ IsUpdate .rot (inputsOf (some 0x7#4) none false : Inputs D) ∧ ¬ IsQuery .rot (inputsOf (some 0x7#4) none false : Inputs D)) := by
  refine ⟨run_exists _ _, ⟨rfl, run_exists _ _⟩, ⟨rfl, run_exists _ _⟩, ?_, ?_⟩
  · unfold IsUpdate; decide
  · unfold IsQuery; decide

/-- One step for each clause: each opcode with data of its own, the two ends of the rest, a reset and an idle step. -/
theorem witness_ResponsesAreAsTabled : D.opcodeWidth = 4 ∧ 2 ≤ D.nTrackers ∧ D.nLevels ≤ D.respWidth ∧
    command? (inputsOf (some 0x1#4) none false : Inputs D) = some .snapshot ∧
    command? (inputsOf (some 0x2#4) none false : Inputs D) = some .consumeChanged ∧
    command? (inputsOf (some 0x4#4) none false : Inputs D) = some .rotCw ∧
    command? (inputsOf (some 0x5#4) none false : Inputs D) = some .rotPress ∧
    command? (inputsOf (some 0x7#4) none false : Inputs D) = some .snzPress ∧
    command? (inputsOf (some 0x0#4) none false : Inputs D) = some .nop ∧
    command? (inputsOf (some 0xF#4) none false : Inputs D) = some (.reserved ⟨4, 0xF#4⟩) ∧
    (inputsOf (some 0x1#4) none true : Inputs D).rst = true ∧ (inputsOf none none false : Inputs D).cmdValid = false ∧
    ∃ u, Run [inputsOf (some 0x1#4) none false] busyBlock u :=
  ⟨rfl, by decide, by decide, rfl, rfl, rfl, rfl, rfl, rfl, rfl, rfl, rfl, run_exists _ _⟩

/-- One instruction for each clause. -/
theorem witness_EachFieldHasItsWriters :
    (∃ T : Block D, exec (.capture ⟨4, 0b0010#4⟩) busy = .next { busy with block := T } ∧ T.L ≠ busyBlock.L) ∧
    (∃ T : Block D, exec (.capture ⟨4, 0b0010#4⟩) State.reset = .next { State.reset with block := T } ∧
      State.reset.block.CF = false ∧ T.CF = true) ∧
    (∃ T : Block D, exec .consumeChanged busy = .next { busy with block := T } ∧ busyBlock.CF = true ∧ T.CF = false) ∧
    (∃ T : Block D, exec .rotUpdate busy = .next { busy with block := T } ∧ (T.tracker .rot).prev ≠ (busyBlock.tracker .rot).prev) ∧
    (∃ T : Block D, exec .rotCw busy = .next { busy with block := T } ∧ (T.tracker .rot).rc ≠ (busyBlock.tracker .rot).rc) ∧
    (∃ T : Block D, exec .snzUpdate busy = .next { busy with block := T } ∧ (T.tracker .snz).prev ≠ (busyBlock.tracker .snz).prev) ∧
    (∃ T : Block D, exec .snzPress busy = .next { busy with block := T } ∧ (T.tracker .snz).rc ≠ (busyBlock.tracker .snz).rc) ∧
    (∃ T : Block D, exec .nop busy = .next { busy with block := T } ∧ T.outputs ≠ busyBlock.outputs) ∧
    2 < wide.nTrackers :=
  ⟨⟨_, rfl, by decide⟩, ⟨_, rfl, by decide⟩, ⟨_, rfl, by decide⟩, ⟨_, rfl, by decide⟩, ⟨_, rfl, by decide⟩,
    ⟨_, rfl, by decide⟩, ⟨_, rfl, by decide⟩, ⟨_, rfl, by decide⟩, by decide⟩

theorem witness_OnlyTheSixReadersChangeTheState : (∃ t, exec .snapshot busy = .next t) ∧ (∃ t, exec .nop busy = .next t) ∧
    (∃ t, exec (.reserved ⟨4, 0x9#4⟩) busy = .next t) ∧
    Instr.snzPress ∈ [Instr.consumeChanged, .rotUpdate, .rotCw, .rotPress, .snzUpdate, .snzPress] :=
  ⟨⟨_, rfl⟩, ⟨_, rfl⟩, ⟨_, rfl⟩, by decide⟩

theorem witness_SameStepCaptureIsNotLost : ∃ u, Run [inputsOf (some 0x6#4) (some 0b0011#4) false] busyBlock u := run_exists _ _

theorem witness_ResetStepLoadsEveryField : (inputsOf (some 0x4#4) (some 0b0111#4) true : Inputs D).rst = true := rfl

theorem witness_ResetDiscardsCommandAndCapture :
    (∀ i ∈ [(inputsOf (some 0x4#4) (some 0b0111#4) true : Inputs D), inputsOf none none true], i.rst = true) ∧
    ∃ t, Run [inputsOf (some 0x4#4) (some 0b0111#4) true, inputsOf none none true] busyBlock t := ⟨by decide, run_exists _ _⟩

/-- With SNAPSHOT and with another command as the last one. -/
theorem witness_NothingIsReportedBeforeTheFirstCapture : (Block.resetState D).Quiet ∧
    captured? (inputsOf (some 0x3#4) none false : Inputs D) = none ∧
    decodeCommand D 0x1#4 = .snapshot ∧ decodeCommand D 0x4#4 ≠ .snapshot ∧
    ∃ t, Run [inputsOf (some 0x3#4) none false] (Block.resetState D) t ∧ (∃ u, Run [inputsOf (some 0x1#4) none false] t u) ∧
      ∃ u, Run [inputsOf (some 0x4#4) none false] t u :=
  ⟨⟨rfl, rfl, rfl, rfl⟩, by decide, rfl, by decide, _, run_edges _ _, run_exists _ _, run_exists _ _⟩

theorem witness_FirstCaptureAfterResetReportsNoPress :
    (∃ t : Block D, Run [inputsOf none (some 0b1101#4) false, inputsOf (some 0x6#4) none false] (Block.resetState D) t ∧
      ∃ u, Run [inputsOf (some 0x7#4) none false] t u) ∧
    ∃ t : Block D, Run [inputsOf none (some 0b1101#4) false, inputsOf (some 0x3#4) none false] (Block.resetState D) t ∧
      (∃ u, Run [inputsOf (some 0x5#4) none false] t u) ∧ ∃ u, Run [inputsOf (some 0x4#4) none false] t u :=
  ⟨⟨_, run_edges _ _, run_exists _ _⟩, _, run_edges _ _, run_exists _ _, run_exists _ _⟩

theorem witness_PrimingInEitherOrderLoadsBothTrackers : decodeCommand D 0x3#4 = .rotUpdate ∧ decodeCommand D 0x6#4 = .snzUpdate ∧
    (∃ t, Run [inputsOf none (some 0b1100#4) false, inputsOf (some 0x6#4) none false, inputsOf (some 0x3#4) none false] busyBlock t) ∧
    ∃ t, Run [inputsOf none (some 0b1100#4) false, inputsOf (some 0x3#4) none false, inputsOf (some 0x6#4) none false] busyBlock t :=
  ⟨rfl, rfl, run_exists _ _, run_exists _ _⟩

/-- Two captures and a query, none of them a poll. -/
def quietCaptures : List (Inputs D) :=
  [inputsOf none (some 0b0001#4) false, inputsOf (some 0x4#4) (some 0b0011#4) false]

theorem witness_CapturesBetweenPollsCollapse : (∀ i ∈ quietCaptures, i.rst = false ∧ ¬ IsPoll i) ∧
    (quietCaptures.filterMap captured?).getLast? = some 0b0011#4 ∧
    decodeCommand D 0x2#4 = .consumeChanged ∧ decodeCommand D 0x3#4 = updateOf .rot ∧
    ∃ t, Run quietCaptures busyBlock t ∧ (∃ u, Run [inputsOf (some 0x2#4) none false] t u) ∧
      (∃ u, Run [inputsOf (some 0x2#4) none false, inputsOf (some 0x2#4) none false] t u) ∧
      ∃ u, Run [inputsOf (some 0x3#4) none false] t u ∧ ∃ v, Run [inputsOf (some 0x3#4) none false] u v := by
  refine ⟨?_, by decide, rfl, rfl, _, run_edges _ _, run_exists _ _, run_exists _ _, _, run_edges _ _, run_exists _ _⟩
  unfold IsPoll IsUpdate; decide

theorem witness_LevelsAreTheLatestBurst : ∃ t, Run quietCaptures busyBlock t := run_exists _ _

theorem witness_LaterPollersSeeNoChange : IsPoll (inputsOf (some 0x3#4) none false : Inputs D) ∧
    captured? (inputsOf (some 0x3#4) none false : Inputs D) = none ∧
    (∀ i ∈ [(inputsOf (some 0x1#4) none false : Inputs D)], i.rst = false ∧ captured? i = none) ∧
    IsUpdate .snz (inputsOf (some 0x6#4) none false : Inputs D) ∧
    captured? (inputsOf (some 0x6#4) none false : Inputs D) = none ∧
    ∃ t, Run (inputsOf (some 0x3#4) none false :: [inputsOf (some 0x1#4) none false] ++ [inputsOf (some 0x6#4) none false]) busyBlock t :=
  ⟨.inr (.inl rfl), by decide, by decide, rfl, by decide, run_exists _ _⟩

/-- Once after a capture in the run, and once with the flag set from the start. -/
theorem witness_ReportedChangeIsTheFirstPoll : IsUpdate .rot (inputsOf (some 0x3#4) none false : Inputs D) ∧
    (∃ t, Run ([inputsOf none (some 0b0010#4) false] ++ [inputsOf (some 0x3#4) none false]) busyBlock t ∧ (t.tracker .rot).rc = true) ∧
    ∃ t, Run ([] ++ [inputsOf (some 0x3#4) none false]) busyBlock t ∧ (t.tracker .rot).rc = true :=
  ⟨rfl, ⟨_, run_edges _ _, by decide⟩, _, run_edges _ _, by decide⟩

theorem witness_UpdateOrderDecidesWhichChangeIsLost : decodeCommand D 0x3#4 = .rotUpdate ∧ decodeCommand D 0x6#4 = .snzUpdate ∧
    decodeCommand D 0x7#4 = .snzPress ∧
    (∃ t, Run [inputsOf none (some 0b0100#4) false, inputsOf (some 0x3#4) none false, inputsOf (some 0x6#4) none false,
      inputsOf (some 0x7#4) none false] (st 0b1100 false 0b1100 false 0b1100 false) t) ∧
    (∃ t, Run [inputsOf none (some 0b0100#4) false, inputsOf (some 0x6#4) none false, inputsOf (some 0x7#4) none false]
      (st 0b1100 false 0b1100 false 0b1100 false) t) ∧
    (0b0100#4 : Levels D) &&& D.snzWatch ≠ ((st 0b1100 false 0b1100 false 0b1100 false).tracker .snz).prev &&& D.snzWatch ∧
    (0b0100#4 : Levels D).getLsbD D.lines.snoozeButton = false :=
  ⟨rfl, rfl, rfl, run_exists _ _, run_exists _ _, by decide, by decide⟩

theorem witness_OneQueryAnswerPerUpdate : IsQuery .rot (inputsOf (some 0x4#4) none false : Inputs D) ∧
    IsQuery .rot (inputsOf (some 0x5#4) none false : Inputs D) ∧ (∀ i ∈ quietCaptures, ¬ IsUpdate .rot i) ∧
    ∃ t, Run (inputsOf (some 0x4#4) none false :: quietCaptures ++ [inputsOf (some 0x5#4) none false]) busyBlock t := by
  refine ⟨.inl rfl, .inr rfl, ?_, run_exists _ _⟩
  unfold IsUpdate; decide

/-- Captures that leave the rotary levels 0b001 and come back to them. -/
def bounce : List (Inputs D) := [inputsOf none (some 0b0011#4) false, inputsOf none (some 0b1001#4) false]

theorem witness_BounceBackIsFiltered : (∀ i ∈ bounce, i.rst = false ∧ ¬ IsUpdate .rot i) ∧
    (bounce.filterMap captured?).getLast? = some 0b1001#4 ∧
    0b1001#4 &&& watchMask D .rot = (busyBlock.tracker .rot).prev &&& watchMask D .rot ∧
    IsUpdate .rot (inputsOf (some 0x3#4) none false : Inputs D) ∧
    ∃ t, Run (bounce ++ [inputsOf (some 0x3#4) none false]) busyBlock t := by
  refine ⟨?_, by decide, by decide, rfl, run_exists _ _⟩
  unfold IsUpdate; decide

theorem witness_UnqueriedChangePersistsOnlyUntilTheNextUpdate :
    (∀ i ∈ [(inputsOf (some 0x7#4) (some 0b0011#4) false : Inputs D)], i.rst = false ∧ ¬ IsUpdate .rot i ∧ ¬ IsQuery .rot i) ∧
    IsUpdate .rot (inputsOf (some 0x3#4) none false : Inputs D) ∧
    ∃ t, Run [inputsOf (some 0x7#4) (some 0b0011#4) false] busyBlock t ∧ (∃ u, Run [inputsOf (some 0x3#4) none false] t u) ∧
      ∃ u, Run [inputsOf (some 0x3#4) none false] (t.setTracker .rot { prev := (t.tracker .rot).prev, rc := false }) u := by
  refine ⟨?_, rfl, _, run_edges _ _, run_exists _ _, run_exists _ _⟩
  unfold IsUpdate IsQuery; decide

theorem witness_CaptureBesideAnUpdateIsSeenByTheNextPoll : decodeCommand D 0x6#4 = updateOf .snz ∧
    decodeCommand D 0x2#4 = .consumeChanged ∧
    ∃ t, Run [inputsOf (some 0x6#4) (some 0b0011#4) false] busyBlock t ∧
      (∃ u, Run [inputsOf (some 0x2#4) none false] t u) ∧ ∃ u, Run [inputsOf (some 0x6#4) none false] t u :=
  ⟨rfl, rfl, _, run_edges _ _, run_exists _ _, run_exists _ _⟩

/-- Two states and two captures that differ in the snooze level. -/
theorem witness_SnoozeLevelsDoNotReachTheRotaryQueries :
    D.lines.snoozeButton ∉ [D.lines.rotaryA, D.lines.rotaryB, D.lines.rotaryButton] ∧
    D.rotWatch.getLsbD D.lines.snoozeButton = false ∧ RotaryAgree busyBlock { busyBlock with L := 0b0101#4 } ∧
    List.Forall₂ InputsButSnooze [(inputsOf (some 0x3#4) (some 0b1010#4) false : Inputs D)] [inputsOf (some 0x3#4) (some 0b0010#4) false] ∧
    ∃ s' t' : Block D, Run [inputsOf (some 0x3#4) (some 0b1010#4) false] busyBlock s' ∧
      Run [inputsOf (some 0x3#4) (some 0b0010#4) false] { busyBlock with L := 0b0101#4 } t' ∧
      IsQuery .rot (inputsOf (some 0x4#4) none false : Inputs D) ∧ (∃ u, Run [inputsOf (some 0x4#4) none false] s' u) ∧
      ∃ u, Run [inputsOf (some 0x4#4) none false] t' u := by
  refine ⟨by decide, by decide, ⟨?_, rfl, fun _ _ => rfl, rfl⟩, .cons ⟨rfl, rfl, rfl, rfl, ?_⟩ .nil, _, _, run_edges _ _, run_edges _ _,
    .inl rfl, run_exists _ _, run_exists _ _⟩
  · unfold AgreeButSnooze; decide
  · unfold AgreeButSnooze; decide

theorem witness_EveryStepKeepsTheInvariant : busy.block.Inv ∧ ∃ t, step busy = .next t := by
  refine ⟨?_, _, rfl⟩
  show busyBlock.Inv
  unfold Block.Inv Block.RespOk Block.BlindIdle; decide

theorem witness_EveryStepExtendsTheHistory :
    Explained ([] : List (Inputs D)) (on (Block.resetState D) [inputsOf (some 0x3#4) (some 0b0001#4) false]).block ∧
    ∃ t, step (on (Block.resetState D) [inputsOf (some 0x3#4) (some 0b0001#4) false]) = .next t := by
  refine ⟨⟨rfl, rfl, rfl, rfl, ?_, rfl⟩, _, rfl⟩
  intro k hk h2
  exact absurd hk (Nat.not_lt.2 h2)

theorem witness_WithoutConsumeAClearFlagMeansATrackerHoldsTheLevels :
    (on (Block.resetState D) [inputsOf (some 0x3#4) none false]).block.LevelsSeen ∧
    command? (on (Block.resetState D) [inputsOf (some 0x3#4) none false]).nextInputs ≠ some .consumeChanged ∧
    ∃ t, step (on (Block.resetState D) [inputsOf (some 0x3#4) none false]) = .next t :=
  ⟨fun _ => .inl rfl, by decide, _, rfl⟩

end Sys2Proof.Machine.Tests
end

section
/-! PROOFS. The scope statements: any inputs are accepted (00_scope.md R12), a step without listed inputs takes a free draw,
and the opcode map for every choice of the parameters (00_scope.md R6, 30_encoding.md R62, R63). -/

namespace Sys2Proof.Machine

/-- The reserved numbers as ranges: 8 and above, and the opcodes of a tracker that is not built (log entries 4 and 15). -/
theorem reservedOpcode_iff (c : Config) (n : Nat) :
    reservedOpcode c n = true ↔
      0x8 ≤ n ∨ (c.nTrackers < 1 ∧ 0x3 ≤ n ∧ n ≤ 0x5) ∨ (c.nTrackers < 2 ∧ 0x6 ≤ n ∧ n ≤ 0x7) := by
  have hrot : TrackerId.rot.built c = false ↔ c.nTrackers < 1 := by
    rw [← Bool.not_eq_true, rot_built_iff, Nat.not_le]
  have hsnz : TrackerId.snz.built c = false ↔ c.nTrackers < 2 := by
    rw [← Bool.not_eq_true, snz_built_iff, Nat.not_le]
  match n with
  | 0 | 1 | 2 => simp [reservedOpcode]
  | 3 | 4 | 5 => simp [reservedOpcode, hrot]
  | 6 | 7 => simp [reservedOpcode, hsnz]
  | _ + 8 => simp [reservedOpcode]

/-- Settles O11: a run has one step for each of its inputs and ends in the state its edges name, and in no other. -/
theorem everyInputSequenceIsAccepted : Obligations.EveryInputSequenceIsAccepted := by
  intro c xs s
  exact ⟨edges xs s, run_edges xs s, fun u hu => (run_iff xs s u).1 hu⟩

/-- Settles O7: both steps are the edge with the inputs of the draw, and leave none listed. -/
theorem stepWithoutListedInputsTakesAFreeDraw : Obligations.StepWithoutListedInputsTakesAFreeDraw := by
  intro c S n
  exact (step_free S n).trans (step_listed (Config.freeInputs c n) S [] (n + 1)).symm

/-- Settles O54: the eight commands by the numbers they decode from, every other opcode by the reserved numbers. -/
theorem opcodeMapHoldsAtEveryWidth : Obligations.OpcodeMapHoldsAtEveryWidth := by
  intro c op
  obtain ⟨nop, snapshot, consume, rotUpdate, rotCw, rotPress, snzUpdate, snzPress⟩ := decodeCommand_eq_iff c op
  refine ⟨nop.2, snapshot.2, consume.2, fun hrot => ⟨?_, ?_, ?_⟩, fun hsnz => ⟨?_, ?_⟩, fun hres => ?_⟩
  · exact fun hn => rotUpdate.2 ⟨hn, hrot⟩
  · exact fun hn => rotCw.2 ⟨hn, hrot⟩
  · exact fun hn => rotPress.2 ⟨hn, hrot⟩
  · exact fun hn => snzUpdate.2 ⟨hn, hsnz⟩
  · exact fun hn => snzPress.2 ⟨hn, hsnz⟩
  · exact decodeCommand_reserved c op ((reservedOpcode_iff c op.toNat).2 hres)

end Sys2Proof.Machine
end

section
/-! PROOFS. The state's fields (10_state.md): what the history of inputs makes of each, the tracker's transition table, who
writes which field, and the state after reset. -/

namespace Sys2Proof.Machine

variable {c : Config}

/-! ### The one state a step answers -/

/-- The free draw is counted just where no inputs were listed (log entry 3). -/
theorem nextDraws_eq (s : State) : s.nextDraws = s.draws + (if s.pending = [] then 1 else 0) := by
  unfold State.nextDraws
  split
  · next hp => simp [hp]
  · next hp => simp [hp]

/-- A step answers the edge of the block's state, with the parameters as they were and the step's inputs used up. -/
theorem step_next_iff (s t : State) :
    step s = .next t ↔ t = { s.takeInputs with block := edge s.nextInputs s.block } := by
  rw [step_eq_edge, Host.Outcome.next.injEq, eq_comm]
  rfl

/-- An instruction answers the one state in which its effect is the block's. -/
theorem exec_next_iff (i : Instr) (s t : State) : exec i s = .next t ↔ t = { s with block := effect i s.block } := by
  rw [exec_eq_effect, Host.Outcome.next.injEq, eq_comm]

/-- A run of one step is one edge. -/
theorem run_one_iff (x : Inputs c) (s u : Block c) : Run [x] s u ↔ u = edge x s := run_iff [x] s u

/-! ### The account of every field by the history of inputs -/

/-- The reset state is what the empty history says (R31). -/
theorem explained_resetState (c : Config) : Explained [] (Block.resetState c) where
  levels := Block.resetState_L
  flag := Block.resetState_CF
  rot := Block.resetState_tracker .rot
  snz := Block.resetState_tracker .snz
  others k hk _ := by rw [Block.resetState_trackers, Vector.getElem_replicate, resetTracker]
  outputs := rfl

/-- A tracker's record after an edge is the history's, where the record, the levels and the flag before it were (R23, R25,
41_debounce_trackers.md R103). -/
theorem edge_tracker_hist {t : TrackerId} {h : List (Inputs c)} {s : Block c} (x : Inputs c) (levels : s.L = histLevels h)
    (flag : s.CF = histFlag h) (record : s.tracker t = { prev := histPrev t h, rc := histChange t h }) :
    (edge x s).tracker t = { prev := histPrev t (x :: h), rc := histChange t (x :: h) } := by
  rw [edge_tracker, levels, flag, record, relevantChange_eq, histPrev, histChange]
  split
  · rfl
  split
  · rfl
  split <;> rfl

/-- An edge makes of a state that a history explains one that the history with the edge's inputs explains. -/
theorem explained_edge {h : List (Inputs c)} {s : Block c} (x : Inputs c) (hs : Explained h s) :
    Explained (x :: h) (edge x s) := by
  obtain ⟨levels, flag, rot, snz, others, -⟩ := hs
  constructor
  case levels => rw [edge_L, levels, histLevels]
  case flag => rw [edge_CF, flag, histFlag]
  case rot => exact edge_tracker_hist x levels flag rot
  case snz => exact edge_tracker_hist x levels flag snz
  case others =>
    intro k hk h2
    rw [edge_others x s k hk h2, others k hk h2, resetTracker, ite_self]
  case outputs => rw [edge_outputs, levels, flag, rot, snz, histOutputs]

/-- Settles O52: a step is an edge, and an edge extends the history field by field. -/
theorem everyStepExtendsTheHistory : Obligations.EveryStepExtendsTheHistory := by
  intro s t h hs ht
  exact ⟨_, (step_next_iff s t).1 ht, explained_edge s.nextInputs hs⟩

/-- Settles O51: both states are the block's reset state, which the empty history explains. -/
theorem resetStateIsTheEmptyHistory : Obligations.ResetStateIsTheEmptyHistory :=
  ⟨explained_resetState Config.default, explained_resetState⟩

/-! ### The tracker's transition table -/

/-- Settles O28: the tracker's record after an edge, read by the kind of step: a reset, an UPDATE, a query or none. -/
theorem trackerTransitionsAreAsTabled : Obligations.TrackerTransitionsAreAsTabled := by
  intro c t inp s u hrun
  obtain rfl := (run_one_iff inp s u).1 hrun
  rw [edge_tracker]
  refine ⟨fun hrst => ?_, fun hupd => ?_, fun hqry => ?_, fun hrst hupd hqry => ?_⟩
  · rw [if_pos hrst]
  · obtain ⟨hrst, hupd⟩ := (isUpdate_iff t inp).1 hupd
    simp [hrst, hupd, relevantChange_iff]
  · obtain ⟨hrst, hqry⟩ := (isQuery_iff t inp).1 hqry
    have hupd : presentsUpdate t inp = false :=
      Bool.eq_false_iff.2 fun hu => Bool.false_ne_true ((presentsQuery_of_update t inp hu).symm.trans hqry)
    simp [hrst, hupd, hqry]
  · have hupd : ¬ presentsUpdate t inp = true := fun hu => hupd ((isUpdate_iff t inp).2 ⟨hrst, hu⟩)
    have hqry : ¬ presentsQuery t inp = true := fun hq => hqry ((isQuery_iff t inp).2 ⟨hrst, hq⟩)
    rw [if_neg (Bool.eq_false_iff.1 hrst), if_neg hupd, if_neg hqry]

/-! ### Who writes which field -/

/-- The one instruction that is no command is the capture. -/
theorem isCommand_or_capture (i : Instr) : i.isCommand = true ∨ ∃ pins, i = .capture pins := by
  cases i with
  | capture pins => exact .inr ⟨pins, rfl⟩
  | _ => exact .inl rfl

/-- Every command but the three polls leaves the ChangedFlag alone (R22). -/
theorem effect_CF_frame {i : Instr} (hc : i.isCommand = true) (hi : i ∉ [Instr.consumeChanged, .rotUpdate, .snzUpdate])
    (s : Block c) : (effect i s).CF = s.CF := by
  cases i with
  | consumeChanged | rotUpdate | snzUpdate => simp at hi
  | capture => exact absurd hc Bool.false_ne_true
  | _ => rfl

/-- No command sets the ChangedFlag (R22). -/
theorem effect_CF_of_isCommand {i : Instr} (hc : i.isCommand = true) {s : Block c} (hs : s.CF = false) :
    (effect i s).CF = false := by
  cases i with
  | consumeChanged | rotUpdate | snzUpdate => rfl
  | capture => exact absurd hc Bool.false_ne_true
  | _ => exact hs

/-- A tracker's record is left alone by every instruction but its UPDATE and its queries. -/
theorem effect_tracker_frame {t : TrackerId} {i : Instr} (hu : i ≠ updateOf t) (hq : i ∉ queriesOf t) (s : Block c) :
    (effect i s).tracker t = s.tracker t := by
  cases t with
  | rot =>
    cases i with
    | rotUpdate => exact absurd rfl hu
    | rotCw | rotPress => simp [queriesOf] at hq
    | snzUpdate | snzPress => exact Block.setTracker_snz_rot _ _
    | _ => rfl
  | snz =>
    cases i with
    | snzUpdate => exact absurd rfl hu
    | snzPress => simp [queriesOf] at hq
    | rotUpdate | rotCw | rotPress => exact Block.setTracker_rot_snz _ _
    | _ => rfl

/-- A query leaves its tracker's previous levels alone, whether or not the tracker is built (R102). -/
theorem query_prev (s : Block c) (t : TrackerId) (test : Levels c → Bool) :
    ((s.query t test).tracker t).prev = (s.tracker t).prev := by
  have hq : (s.query t test).tracker t = (s.setTracker t { prev := (s.tracker t).prev, rc := false }).tracker t := rfl
  rw [hq]
  cases hb : t.built c
  · rw [s.setTracker_unbuilt hb]
  · rw [s.tracker_setTracker_self hb]

/-- A tracker's previous levels are written by its UPDATE alone (R23). -/
theorem effect_prev_frame {t : TrackerId} {i : Instr} (hu : i ≠ updateOf t) (s : Block c) :
    ((effect i s).tracker t).prev = (s.tracker t).prev := by
  by_cases hq : i ∈ queriesOf t
  · cases t with
    | rot =>
      obtain rfl | rfl : i = .rotCw ∨ i = .rotPress := by simpa [queriesOf] using hq
      · exact query_prev s .rot _
      · exact query_prev s .rot _
    | snz =>
      obtain rfl : i = .snzPress := by simpa [queriesOf] using hq
      exact query_prev s .snz _
  · rw [effect_tracker_frame hu hq]

/-- A tracker's relevantChange is written by its UPDATE and its queries alone (R24). -/
theorem writer_of_rc_ne {t : TrackerId} {i : Instr} {s : Block c} (h : ((effect i s).tracker t).rc ≠ (s.tracker t).rc) :
    i = updateOf t ∨ i ∈ queriesOf t := by
  by_contra hi
  obtain ⟨hu, hq⟩ := not_or.1 hi
  exact h (by rw [effect_tracker_frame hu hq])

/-- Settles O30: each field's frame under the instruction's effect, read as who wrote it. -/
theorem eachFieldHasItsWriters : Obligations.EachFieldHasItsWriters := by
  intro i s t hexec
  refine ⟨_, (exec_next_iff i s t).1 hexec, fun hL => ?_, fun hF hF' => ?_, fun hF hF' => ?_, fun hprev => ?_, fun hrc => ?_,
    fun hprev => ?_, fun hrc => ?_, effect_others i s.block, fun hout => ?_⟩
  · exact (isCommand_or_capture i).resolve_left fun hc => hL (effect_L i hc s.block)
  · refine (isCommand_or_capture i).resolve_left fun hc => Bool.false_ne_true ?_
    exact (effect_CF_of_isCommand hc hF).symm.trans hF'
  · obtain hc | ⟨pins, rfl⟩ := isCommand_or_capture i
    · by_contra hi
      exact Bool.false_ne_true (hF'.symm.trans ((effect_CF_frame hc (by simpa using hi) s.block).trans hF))
    · exact Bool.noConfusion hF'
  · exact not_imp_comm.1 (fun hu => effect_prev_frame hu s.block) hprev
  · simpa [updateOf, queriesOf] using writer_of_rc_ne hrc
  · exact not_imp_comm.1 (fun hu => effect_prev_frame hu s.block) hprev
  · simpa [updateOf, queriesOf] using writer_of_rc_ne hrc
  · obtain hc | ⟨pins, rfl⟩ := isCommand_or_capture i
    · exact hc
    · exact absurd rfl hout

/-- Settles O13: the one state a step answers has the parameters as they were and the rest of the listed inputs. -/
theorem parametersAreConstantAndInputsAreUsedUp : Obligations.ParametersAreConstantAndInputsAreUsedUp := by
  intro s t ht
  obtain rfl := (step_next_iff s t).1 ht
  refine ⟨rfl, edge s.nextInputs s.block, ?_⟩
  rw [← nextDraws_eq]
  rfl

/-! ### The state after reset -/

/-- The reset state shows no response, and its trackers are Idle whatever they watch (R31). -/
theorem resetState_inv (c : Config) : (Block.resetState c).Inv := by
  refine ⟨⟨fun _ => ⟨rfl, rfl⟩, fun _ => rfl⟩, fun _ => ?_, fun _ => ?_⟩
  · rw [Block.resetState_tracker]
  · rw [Block.resetState_tracker]

/-- Settles O49: the state right after reset holds the block's reset state, which meets the invariant. -/
theorem resetStateMeetsTheInvariant : Obligations.ResetStateMeetsTheInvariant :=
  ⟨resetState_inv Config.default, resetState_inv⟩

/-- Settles O33: the fields by definition, the trackers' records as the reset state of the default parameters has them. -/
theorem resetStateHoldsTheTabledValues : Obligations.ResetStateHoldsTheTabledValues :=
  ⟨rfl, rfl, rfl, Block.resetState_tracker .rot, Block.resetState_tracker .snz, rfl, rfl, rfl, reset_block⟩

end Sys2Proof.Machine
end

section
/-! PROOFS. The memory statements (20_memory.md): a step is the command and then the capture, runs are one total order, which
commands change the state, and no capture is lost beside a command. -/

namespace Sys2Proof.Machine

variable {c : Config}

/-! ### A clock edge, by what its inputs ask for -/

/-- In a reset step the other ports do not matter (70_reset_and_hazards.md R170). -/
theorem edge_of_rst {x : Inputs c} (hrst : x.rst = true) (s : Block c) : edge x s = Block.resetState c := if_pos hrst

/-- Without a reset, an edge applies the capture to what the command half leaves (R45). -/
theorem edge_of_not_rst {x : Inputs c} (hrst : x.rst = false) (s : Block c) :
    edge x s =
      (if x.cmdValid then effect (decodeCommand c x.cmdOp) s else s.noResponse).withCapture (captured? x) := by
  cases hcap : x.capStrobe
  · have hnone : captured? x = none := (captured?_none x).2 (.inr hcap)
    simp [edge, hrst, hcap, hnone]
  · have hsome : captured? x = some x.capPins := (captured?_some x _).2 ⟨hrst, hcap, rfl⟩
    simp [edge, hrst, hcap, hsome]

/-- Every command answers (30_encoding.md R66). -/
theorem effect_respValid {i : Instr} (hc : i.isCommand = true) (s : Block c) : (effect i s).respValid = true := by
  cases i with
  | capture => exact absurd hc Bool.false_ne_true
  | _ => rfl

/-- Settles O6: the step is the edge, which is the reset state, the command's effect or the cleared response, the last two
with the capture applied. -/
theorem stepPerformsCommandThenCapture : Obligations.StepPerformsCommandThenCapture := by
  intro c S inp rest n s next
  have hstep : step s = .next (next (edge inp S)) := step_listed inp S rest n
  refine ⟨fun hrst => ?_, fun hrst hcmd => ?_, fun hrst hidle => ?_⟩
  · rw [hstep, edge_of_rst hrst]
  · refine ⟨effect (decodeCommand c inp.cmdOp) S, exec_eq_effect _ (next S),
      effect_respValid (decodeCommand_isCommand c inp.cmdOp) S, ?_⟩
    rw [hstep, edge_of_not_rst hrst, if_pos hcmd]
  · rw [hstep, edge_of_not_rst hrst, if_neg (Bool.eq_false_iff.1 hidle)]
    rfl

/-! ### One total order -/

/-- Settles O12: the edges of the two sequences together are those of the first and then those of the second. -/
theorem runsCompose : Obligations.RunsCompose := by
  intro c xs ys s u
  simp only [run_iff, edges_append, exists_eq_left]

/-! ### Which commands change the state -/

/-- NOP, SNAPSHOT and a reserved opcode only respond, and the response they find does not matter to the one they give (R44,
42_control.md R141). -/
theorem effect_only_responds {i : Instr} (hi : i = .nop ∨ i = .snapshot ∨ ∃ op, i = .reserved op) (s : Block c) :
    ∃ d e, effect i s = s.respond d e ∧ effect i (s.respond d e) = s.respond d e := by
  obtain rfl | rfl | ⟨op, rfl⟩ := hi
  · exact ⟨_, _, rfl, rfl⟩
  · exact ⟨_, _, rfl, rfl⟩
  · exact ⟨_, _, rfl, rfl⟩

/-- The six readers are the polls of the ChangedFlag and the trackers' queries (R44). -/
theorem poll_or_query_of_reader {i : Instr}
    (hi : i ∈ [Instr.consumeChanged, .rotUpdate, .rotCw, .rotPress, .snzUpdate, .snzPress]) :
    i ∈ [Instr.consumeChanged, .rotUpdate, .snzUpdate] ∨ ∃ t, i ∈ queriesOf t := by
  have hsplit : ∀ i ∈ [Instr.consumeChanged, .rotUpdate, .rotCw, .rotPress, .snzUpdate, .snzPress],
      i ∈ [Instr.consumeChanged, .rotUpdate, .snzUpdate] ∨ i ∈ queriesOf .rot ∨ i ∈ queriesOf .snz := by decide
  exact (hsplit i hi).imp_right fun hquery => hquery.elim (⟨.rot, ·⟩) (⟨.snz, ·⟩)

/-- Every poll leaves the ChangedFlag clear (10_state.md R22). -/
theorem effect_poll_CF {i : Instr} (hi : i ∈ [Instr.consumeChanged, .rotUpdate, .snzUpdate]) (s : Block c) :
    (effect i s).CF = false := by
  obtain rfl | rfl | rfl : i = .consumeChanged ∨ i = .rotUpdate ∨ i = .snzUpdate := by simpa using hi
  · rfl
  · rfl
  · rfl

/-- Every query leaves its tracker Idle, where the tracker is built (41_debounce_trackers.md R102). -/
theorem effect_query_rc {t : TrackerId} {i : Instr} (hi : i ∈ queriesOf t) (ht : t.built c = true) (s : Block c) :
    ((effect i s).tracker t).rc = false := by
  have hquery (test : Levels c → Bool) : ((s.query t test).tracker t).rc = false :=
    congrArg Tracker.rc (s.tracker_setTracker_self ht _)
  cases t with
  | rot =>
    obtain rfl | rfl : i = .rotCw ∨ i = .rotPress := by simpa [queriesOf] using hi
    · exact hquery _
    · exact hquery _
  | snz =>
    obtain rfl : i = .snzPress := by simpa [queriesOf] using hi
    exact hquery _

/-- A state of the default block with the ChangedFlag set and both trackers in ChangedUnconsumed: each of the six readers
has something to clear. -/
def allFlagsSet : State :=
  { cfg := Config.default
    block := { Block.resetState Config.default with
      CF := true
      trackers := Vector.replicate 2 { prev := 0b0000#4, rc := true } }
    pending := []
    draws := 0 }

theorem allFlagsSet_CF : allFlagsSet.block.CF = true := rfl

theorem allFlagsSet_rc (t : TrackerId) : (allFlagsSet.block.tracker t).rc = true := by cases t <;> rfl

theorem allFlagsSet_built (t : TrackerId) : t.built allFlagsSet.cfg = true := by cases t <;> rfl

/-- Settles O31: the first three only respond; of the six, a poll clears the set ChangedFlag and a query the set
relevantChange of its tracker, neither of them a response register. -/
theorem onlyTheSixReadersChangeTheState : Obligations.OnlyTheSixReadersChangeTheState := by
  refine ⟨fun i s hi => ?_, fun i hi => ?_⟩
  · obtain ⟨d, e, hfirst, hagain⟩ := effect_only_responds hi s.block
    refine ⟨s.block.respond d e, ?_, rfl, ?_⟩
    · rw [exec_eq_effect, hfirst]
    · rw [exec_eq_effect, hagain]
  · refine ⟨allFlagsSet, effect i allFlagsSet.block, exec_eq_effect i allFlagsSet, fun hsame => ?_⟩
    obtain hpoll | ⟨t, hquery⟩ := poll_or_query_of_reader hi
    · have hCF : (effect i allFlagsSet.block).CF = allFlagsSet.block.CF := congrArg (fun T => T.CF) hsame
      rw [effect_poll_CF hpoll, allFlagsSet_CF] at hCF
      exact Bool.false_ne_true hCF
    · have hrc : ((effect i allFlagsSet.block).tracker t).rc = (allFlagsSet.block.tracker t).rc :=
        congrArg (fun T => (T.tracker t).rc) hsame
      rw [effect_query_rc hquery (allFlagsSet_built t), allFlagsSet_rc] at hrc
      exact Bool.false_ne_true hrc

/-! ### No capture is lost -/

/-- Settles O32: the step's edge captures last, after whatever the command did to the flag. -/
theorem sameStepCaptureIsNotLost : Obligations.SameStepCaptureIsNotLost := by
  intro c s u op pins hrun
  obtain rfl := (run_one_iff _ s u).1 hrun
  rw [edge_command, withCapture_some]
  exact ⟨Block.capture_CF _ pins, Block.capture_L _ pins⟩

end Sys2Proof.Machine
end

section
/-! PROOFS. The encoding statements (30_encoding.md): the opcode map and the capture bundle, the round trips between words
and instructions, the presenting of a word, the lines of a listing, the response table and the invariant of the response
registers. -/

namespace Sys2Proof.Machine

variable {c : Config}

/-! ### The opcode map -/

/-- The opcodes that decode to a reserved instruction are those with a reserved number (R62, R63). -/
theorem decodeCommand_eq_reserved_iff (op : Opcode c) :
    (∃ r, decodeCommand c op = .reserved r) ↔ reservedOpcode c op.toNat = true := by
  refine ⟨fun ⟨r, hr⟩ => ?_, fun h => ⟨_, decodeCommand_reserved c op h⟩⟩
  obtain ⟨_, h⟩ | ⟨_, h⟩ | ⟨_, h⟩ | ⟨_, _, h⟩ | ⟨_, _, h⟩ | ⟨_, _, h⟩ | ⟨_, _, h⟩ | ⟨_, _, h⟩ | ⟨hres, _⟩ :=
    decodeCommand_cases c op
  case inr.inr.inr.inr.inr.inr.inr.inr => exact hres
  all_goals exact nomatch h.symm.trans hr

/-- With four opcode bits and both trackers built, `op[3]` selects the reserved opcodes (R62). -/
theorem reservedOpcode_eq_bit3 (hw : c.opcodeWidth = 4) (hb : 2 ≤ c.nTrackers) (op : Opcode c) :
    reservedOpcode c op.toNat = op.getLsbD 3 := by
  have hbit : op.getLsbD 3 = decide (8 ≤ op.toNat) := by simpa [hw] using BitVec.getLsbD_last op
  rw [Bool.eq_iff_iff, hbit, reservedOpcode_iff, decide_eq_true_iff]
  omega

/-- Settles O1: the defined words by evaluation, the reserved ones by `op[3]`. -/
theorem opcodeMapIsAsTheTableSays : Obligations.OpcodeMapIsAsTheTableSays := by
  refine ⟨rfl, rfl, rfl, rfl, rfl, rfl, rfl, rfl, fun op => ?_⟩
  rw [← reservedOpcode_eq_bit3 (c := Config.default) rfl (Nat.le_refl 2) op]
  refine ⟨decodeCommand_reserved Config.default op, fun hdef r hr => ?_⟩
  exact Bool.false_ne_true (hdef.symm.trans ((decodeCommand_eq_reserved_iff op).1 ⟨r, hr⟩))

/-! ### The capture bundle -/

/-- A bundle decodes to an instruction just where it has the strobe, and then to the capture of its pins (R64). -/
theorem decodeBundle_eq_ok_iff (b : Bundle c) (i : Instr) :
    decodeBundle c b = .ok i ↔ b.getLsbD c.nLevels = true ∧ i = .capture ⟨c.nLevels, b.extractLsb' 0 c.nLevels⟩ := by
  unfold decodeBundle
  split
  · next hb => rw [Except.ok.injEq, and_iff_right hb, eq_comm]
  · next hb => exact iff_of_false nofun fun h => hb h.1

/-- Under the default assignment a line's level is the bit R21's table gives it. -/
theorem level_of_defaultLines (h : DefaultLines c) (v : Levels c) (l : Line) : level c v l = v.getLsbD (defaultBit l) := by
  rw [level, h l]

/-- Settles O2: the pins are the low bits of the bundle, a line's level one of these bits. -/
theorem captureBundleCarriesTheFourLevels : Obligations.CaptureBundleCarriesTheFourLevels := by
  intro c b
  have hbit (i : Nat) (hi : i < c.nLevels) : (b.extractLsb' 0 c.nLevels).getLsbD i = b.getLsbD i := by simp [hi]
  refine ⟨fun hs => ⟨_, (decodeBundle_eq_ok_iff b _).2 ⟨hs, rfl⟩, hbit, fun hlines => ?_⟩, fun hs => ?_⟩
  · have hlevel (l : Line) : level c (b.extractLsb' 0 c.nLevels) l = b.getLsbD (defaultBit l) := by
      rw [level_of_defaultLines hlines, hbit _ (hlines l ▸ (lineBit c.lines l).isLt)]
    exact ⟨hlevel .snoozeButton, hlevel .rotaryButton, hlevel .rotaryB, hlevel .rotaryA⟩
  · exact if_neg (Bool.eq_false_iff.1 hs)

/-! ### From an instruction to its word and back -/

/-- Decoding the word of a well-formed instruction gives it back (R62, R63, R64). -/
theorem decode_encode (i : Instr) (h : i.wellFormed c = true) : decode c (encode c i) = .ok i := by
  cases i with
  | nop => exact Laws.RoundTrip.nop c h
  | snapshot => exact Laws.RoundTrip.snapshot c h
  | consumeChanged => exact Laws.RoundTrip.consumeChanged c h
  | rotUpdate => exact Laws.RoundTrip.rotUpdate c h
  | rotCw => exact Laws.RoundTrip.rotCw c h
  | rotPress => exact Laws.RoundTrip.rotPress c h
  | snzUpdate => exact Laws.RoundTrip.snzUpdate c h
  | snzPress => exact Laws.RoundTrip.snzPress c h
  | reserved op => exact Laws.RoundTrip.reserved op c h
  | capture pins => exact Laws.RoundTrip.capture pins c h

/-- The table's number of a word that decodes names that word again, where no opcode is as high as the strobe bit: a
command's number fits the opcode, and a capture's holds the strobe, so it does not (log entry 8). -/
theorem portWordOfTable_tableWordOf (hw : c.opcodeWidth ≤ c.nLevels) {p : PortWord c} {i : Instr} (h : decode c p = .ok i) :
    portWordOfTable c (tableWordOf c p) = .ok p := by
  cases p with
  | command op => rw [tableWordOf, portWordOfTable, if_pos op.isLt, BitVec.ofNat_toNat, BitVec.setWidth_eq]
  | bundle b =>
    have hstrobe : 2 ^ c.nLevels ≤ b.toNat := Nat.ge_two_pow_of_testBit ((decodeBundle_eq_ok_iff b i).1 h).1
    have hop : ¬ b.toNat < 2 ^ c.opcodeWidth := Nat.not_lt.2 ((Nat.pow_le_pow_right Nat.two_pos hw).trans hstrobe)
    rw [tableWordOf, portWordOfTable, if_neg hop, if_pos b.isLt, BitVec.ofNat_toNat, BitVec.setWidth_eq]

/-- The table's number of a well-formed instruction's word decodes to the instruction. -/
theorem decodeTable_encode (hw : c.opcodeWidth ≤ c.nLevels) (i : Instr) (h : i.wellFormed c = true) :
    decodeTable c (tableWordOf c (encode c i)) = .ok i := by
  rw [decodeTable, portWordOfTable_tableWordOf hw (decode_encode i h)]
  exact decode_encode i h

/-- At the defaults every number of the table fits in one byte. -/
theorem tableWordOf_default_lt (p : PortWord Config.default) : tableWordOf Config.default p < 2 ^ 8 := by
  cases p with
  | command op => exact op.isLt.trans (by decide)
  | bundle b => exact b.isLt.trans (by decide)

/-- The host's decoder of table words reads just what the table's numbers decode to at the defaults. -/
theorem decodeTableWord_eq_some_iff (nbits w : Nat) (i : Instr) :
    decodeTableWord nbits w = some i ↔ decodeTable Config.default (w % 2 ^ nbits) = .ok i := by
  unfold decodeTableWord
  cases decodeTable Config.default (w % 2 ^ nbits) with
  | ok j => simp
  | error e => simp

/-- Settles O3: the round trip on the port, then through the table's numbers, which fit in the byte read at the defaults. -/
theorem decodeOfEncodeIsTheInstruction : Obligations.DecodeOfEncodeIsTheInstruction := by
  refine ⟨fun c i h => ⟨decode_encode i h, fun hw => decodeTable_encode hw i h⟩, fun i h => ?_⟩
  rw [decodeTableWord_eq_some_iff, Nat.mod_eq_of_lt (tableWordOf_default_lt _)]
  exact decodeTable_encode (Nat.le_refl 4) i h

/-! ### From a word to its instruction and back -/

/-- An opcode that is not reserved is a defined one, and the word of its number. -/
theorem definedOpcode_commandWord {op : Opcode c} {n : Nat} (hn : op.toNat = n)
    (hdef : ¬ (0x8 ≤ n ∨ (c.nTrackers < 1 ∧ 0x3 ≤ n ∧ n ≤ 0x5) ∨ (c.nTrackers < 2 ∧ 0x6 ≤ n ∧ n ≤ 0x7))) :
    definedOpcode c n = true ∧ commandWord c n = .command op := by
  subst hn
  have hres : reservedOpcode c op.toNat = false := Bool.eq_false_iff.2 (mt (reservedOpcode_iff c _).1 hdef)
  refine ⟨?_, ?_⟩
  · rw [definedOpcode, hres, decide_eq_true op.isLt]
    rfl
  · rw [commandWord, BitVec.ofNat_toNat, BitVec.setWidth_eq]

/-- A command word is the word of the well-formed instruction it decodes to (R62, R63). -/
theorem encode_decodeCommand (op : Opcode c) :
    (decodeCommand c op).wellFormed c = true ∧ encode c (decodeCommand c op) = .command op := by
  obtain ⟨hn, h⟩ | ⟨hn, h⟩ | ⟨hn, h⟩ | ⟨hn, hb, h⟩ | ⟨hn, hb, h⟩ | ⟨hn, hb, h⟩ | ⟨hn, hb, h⟩ | ⟨hn, hb, h⟩ | ⟨hres, h⟩ :=
    decodeCommand_cases c op <;> rw [h]
  case inr.inr.inr.inr.inr.inr.inr.inr =>
    refine ⟨?_, ?_⟩
    · simpa [Instr.wellFormed] using hres
    · rw [encode, BitVec.setWidth_eq]
  all_goals exact definedOpcode_commandWord hn (by omega)

/-- A bundle with the strobe is put together again from its pins (R64). -/
theorem bundleOf_extract {b : Bundle c} (hs : b.getLsbD c.nLevels = true) : bundleOf c true (b.extractLsb' 0 c.nLevels) = b := by
  apply BitVec.eq_of_getLsbD_eq
  intro i hi
  obtain hlow | rfl : i < c.nLevels ∨ i = c.nLevels := by omega
  · simp [bundleOf, BitVec.getLsbD_append, hlow]
  · rw [bundleOf_strobe, hs]

/-- Settles O4: by the port the word stands on. -/
theorem encodeOfDecodeIsTheWord : Obligations.EncodeOfDecodeIsTheWord := by
  intro c p i h
  cases p with
  | command op =>
    obtain rfl : decodeCommand c op = i := Except.ok.inj h
    exact encode_decodeCommand op
  | bundle b =>
    obtain ⟨hs, rfl⟩ := (decodeBundle_eq_ok_iff b i).1 h
    refine ⟨decide_eq_true rfl, ?_⟩
    rw [encode, BitVec.setWidth_eq, bundleOf_extract hs]

/-! ### Presenting a word -/

/-- The edge that presents a word performs its instruction: a command as it is, a capture after the cleared response of a
step with no command (R61, R64, 42_control.md R142). -/
theorem edge_inputsOfWord {p : PortWord c} {i : Instr} (h : decode c p = .ok i) (s : Block c) :
    edge (inputsOfWord p) s = effect i (if i.isCommand then s else s.noResponse) := by
  cases p with
  | command op =>
    obtain rfl : decodeCommand c op = i := Except.ok.inj h
    rw [if_pos (decodeCommand_isCommand c op)]
    rfl
  | bundle b =>
    obtain ⟨hs, rfl⟩ := (decodeBundle_eq_ok_iff b i).1 h
    rw [effect_capture]
    exact if_pos hs

/-- A table word that decodes is placed as the inputs of its port's word (log entry 2). -/
theorem withFetchWord_of_decodeTable {s : State} {nbits w : Nat} {i : Instr} (h : decodeTable s.cfg (w % 2 ^ nbits) = .ok i) :
    ∃ p, decode s.cfg p = .ok i ∧ s.withFetchWord nbits w = s.present (inputsOfWord p) := by
  unfold decodeTable at h
  unfold State.withFetchWord inputsOfTableWord
  cases hp : portWordOfTable s.cfg (w % 2 ^ nbits) with
  | ok p => exact ⟨p, by simpa only [hp] using h, rfl⟩
  | error e => simp [hp] at h

/-- Settles O8: the step is the edge with the placed inputs, which performs the word's instruction. -/
theorem presentedWordIsTheNextInstruction : Obligations.PresentedWordIsTheNextInstruction := by
  intro s nbits w i h
  have htable : decodeTable s.cfg (w % 2 ^ nbits) = .ok i := by
    obtain h | ⟨hcfg, h⟩ := h
    · exact h
    · rw [hcfg]
      exact (decodeTableWord_eq_some_iff nbits w i).1 h
  obtain ⟨p, hp, hplaced⟩ := withFetchWord_of_decodeTable htable
  have hstep : step (s.present (inputsOfWord p)) = .next { s with block := edge (inputsOfWord p) s.block } :=
    step_listed (inputsOfWord p) s.block s.pending s.draws
  rw [hplaced, hstep, edge_inputsOfWord hp, exec_eq_effect]
  cases i.isCommand <;> rfl

/-! ### The lines of a listing -/

/-- The word of a capture literal, bit 3 first (R69, 00_scope.md R7). -/
def captureLiteral (v : BitVec 4) : String :=
  let digit : Nat → Char := fun i => if v.getLsbD i then '1' else '0'
  String.ofList ['0', 'b', digit 3, digit 2, digit 1, digit 0]

/-- Each of the sixteen literals stands for the levels it writes. -/
theorem listingPins_captureLiteral : ∀ v : BitVec 4, listingPins.lookup (captureLiteral v) = some v := by decide

/-- The word `rst` is no command, so a line that begins with a command is not the line `rst`. -/
theorem ne_rst_of_listingCommand {m : List String} {n : Option Nat} (hm : listingCommand m = some n) : m ≠ ["rst"] := by
  rintro rfl
  have hnone : listingCommand ["rst"] = none := by decide
  exact nomatch hnone.symm.trans hm

/-- A line with a command, a capture literal or none, and `rst` or not. -/
theorem listingLine_command {m : List String} {n : Option Nat} (hm : listingCommand m = some n) :
    listingLine c [m] = some (writtenInputs c n none false) ∧
    listingLine c [m, ["rst"]] = some (writtenInputs c n none true) ∧
    ∀ v : BitVec 4,
      listingLine c [m, ["capture", captureLiteral v]] = some (writtenInputs c n (some v) false) ∧
      listingLine c [m, ["capture", captureLiteral v], ["rst"]] = some (writtenInputs c n (some v) true) := by
  refine ⟨?_, ?_, fun v => ⟨?_, ?_⟩⟩
  · simp [listingLine, ne_rst_of_listingCommand hm, hm]
  · simp [listingLine, hm]
  · simp [listingLine, hm, listingPins_captureLiteral]
  · simp [listingLine, hm, listingPins_captureLiteral]

/-- Settles O5: the words by evaluation, the forms of a line by its parts. -/
theorem listingLinesStandForTheirInputs : Obligations.ListingLinesStandForTheirInputs :=
  ⟨by decide, by decide, rfl, fun _ => ⟨rfl, fun _ _ hm => listingLine_command hm⟩⟩

/-! ### The response of a step -/

/-- The output ports of two states agree where all three response registers do. -/
theorem outputs_eq_iff (s t : Block c) :
    s.outputs = t.outputs ↔ s.respValid = t.respValid ∧ s.respData = t.respData ∧ s.respErr = t.respErr := by
  rw [Block.outputs, Block.outputs, Outputs.mk.injEq]

/-- A capture touches no response register (40_input_capture.md R80). -/
theorem withCapture_outputs (s : Block c) (cap : Option (Levels c)) : (s.withCapture cap).outputs = s.outputs := by
  cases cap <;> rfl

/-- The response of a step with a command is the command's, whatever the capture port carries. -/
theorem edge_outputs_command {x : Inputs c} (hrst : x.rst = false) (hcmd : x.cmdValid = true) (s : Block c) :
    (edge x s).outputs = (effect (decodeCommand c x.cmdOp) s).outputs := by
  rw [edge_of_not_rst hrst, withCapture_outputs, if_pos hcmd]

/-- A step with no command, or a reset step, leaves the response registers zero (R66). -/
theorem edge_outputs_noCommand {x : Inputs c} (h : x.rst = true ∨ x.cmdValid = false) (s : Block c) :
    (edge x s).outputs = { respValid := false, respData := 0#c.respWidth, respErr := false } := by
  cases hrst : x.rst with
  | true => rw [edge_of_rst hrst]; rfl
  | false =>
    have hidle : x.cmdValid = false := h.resolve_left (Bool.eq_false_iff.1 hrst)
    rw [edge_of_not_rst hrst, withCapture_outputs, hidle]
    rfl

/-- A command's response is an error just where its opcode was reserved (R67). -/
theorem effect_respErr_iff {i : Instr} (hc : i.isCommand = true) (s : Block c) :
    (effect i s).respErr = true ↔ ∃ r, i = .reserved r := by
  cases i with
  | reserved op => exact ⟨fun _ => ⟨op, rfl⟩, fun _ => rfl⟩
  | capture => exact absurd hc Bool.false_ne_true
  | _ => exact ⟨fun h => absurd h Bool.false_ne_true, fun ⟨_, h⟩ => nomatch h⟩

/-- Only SNAPSHOT, CONSUME_CHANGED and the queries answer with data (R67). -/
theorem effect_respData_zero {i : Instr} (hc : i.isCommand = true)
    (hi : i ∉ [Instr.snapshot, .consumeChanged, .rotCw, .rotPress, .snzPress]) (s : Block c) :
    (effect i s).respData = 0#c.respWidth := by
  cases i with
  | snapshot | consumeChanged | rotCw | rotPress | snzPress => simp at hi
  | capture => exact absurd hc Bool.false_ne_true
  | _ => rfl

/-- The data of a query is its single-shot answer (41_debounce_trackers.md R102). -/
theorem query_respData (s : Block c) (t : TrackerId) (test : Levels c → Bool) :
    (s.query t test).respData = answer c ((s.tracker t).rc && test (s.tracker t).prev) :=
  zext_eq c _

/-- Settles O29: the step's response is that of its command's effect, read off command by command. -/
theorem responsesAreAsTabled : Obligations.ResponsesAreAsTabled := by
  intro c inp s u hrun
  obtain rfl := (run_one_iff inp s u).1 hrun
  refine ⟨fun hrst hcmd => ?_, fun h => edge_outputs_noCommand h s⟩
  have hc := decodeCommand_isCommand c inp.cmdOp
  obtain ⟨hvalid, hdata, herr⟩ := (outputs_eq_iff _ _).1 (edge_outputs_command hrst hcmd s)
  have hcommand (i : Instr) : command? inp = some i ↔ decodeCommand c inp.cmdOp = i := by simp [command?_iff, hrst, hcmd]
  simp only [hvalid, hdata, herr, ne_eq, hcommand]
  refine ⟨effect_respValid hc s, effect_respErr_iff hc s, fun hw hb => ?_, fun h hfit i => ?_, fun h => ?_, fun h => ?_,
    fun h => ?_, fun h => ?_, fun hsnap hconsume hcw hpress hsnz => ?_⟩
  · rw [← reservedOpcode_eq_bit3 hw hb, Bool.eq_iff_iff, effect_respErr_iff hc, decodeCommand_eq_reserved_iff]
  · rw [h]
    exact snapshotData_bits hfit s.L i
  · rw [h]
    exact zext_eq c s.CF
  · rw [h]
    exact query_respData s .rot (phase c)
  · rw [h]
    exact query_respData s .rot (rotaryPressed c)
  · rw [h]
    exact query_respData s .snz (snoozePressed c)
  · exact effect_respData_zero hc (by simp [hsnap, hconsume, hcw, hpress, hsnz]) s

/-! ### The invariant -/

/-- Whether the response registers are in order can be read off the output ports. -/
theorem respOk_congr {s t : Block c} (h : s.outputs = t.outputs) : s.RespOk ↔ t.RespOk := by
  obtain ⟨hvalid, hdata, herr⟩ := (outputs_eq_iff s t).1 h
  rw [Block.RespOk, Block.RespOk, hvalid, hdata, herr]

/-- Every command leaves a response, and an error response without data (R66, R67). -/
theorem effect_respOk {i : Instr} (hc : i.isCommand = true) (s : Block c) : (effect i s).RespOk := by
  refine ⟨fun hv => absurd (effect_respValid hc s) (Bool.eq_false_iff.1 hv), fun he => ?_⟩
  obtain ⟨op, rfl⟩ := (effect_respErr_iff hc s).1 he
  rfl

/-- Every edge leaves the response registers in order, whatever they held before. -/
theorem edge_respOk (x : Inputs c) (s : Block c) : (edge x s).RespOk := by
  by_cases h : x.rst = true ∨ x.cmdValid = false
  · exact (respOk_congr (t := Block.resetState c) (edge_outputs_noCommand h s)).2 (resetState_inv c).1
  · obtain ⟨hrst, hcmd⟩ := not_or.1 h
    have hout := edge_outputs_command (Bool.eq_false_iff.2 hrst) (Bool.eq_true_of_not_eq_false hcmd) s
    exact (respOk_congr hout).2 (effect_respOk (decodeCommand_isCommand c x.cmdOp) s)

/-- A tracker that watches no bit stays Idle over every edge: an UPDATE finds no watched bit changed, and every other step
clears relevantChange or leaves it (41_debounce_trackers.md R101, R103). -/
theorem edge_blindIdle {t : TrackerId} {s : Block c} (hs : s.BlindIdle t) (x : Inputs c) : (edge x s).BlindIdle t := by
  intro hmask
  rw [edge_tracker]
  split
  · rfl
  split
  · simp [relevantChange_eq, hmask]
  split
  · rfl
  · exact hs hmask

/-- Settles O50: a step is an edge, which leaves a response in order and each tracker that watches nothing Idle. -/
theorem everyStepKeepsTheInvariant : Obligations.EveryStepKeepsTheInvariant := by
  intro s t ⟨_, hrot, hsnz⟩ ht
  obtain rfl := (step_next_iff s t).1 ht
  exact ⟨edge_respOk s.nextInputs s.block, edge_blindIdle hrot s.nextInputs, edge_blindIdle hsnz s.nextInputs⟩

end Sys2Proof.Machine
end

section
/-! PROOFS. The input capture statements (40_input_capture.md): what CAPTURE, SNAPSHOT and CONSUME_CHANGED do beside any
other port, and what the levels and the ChangedFlag are after any run. -/

namespace Sys2Proof.Machine

variable {c : Config}

/-! ### CAPTURE -/

/-- The capture is the last thing a step does, whatever command it carries, or none (20_memory.md R45). -/
theorem edge_inputsOf_capture (op : Option (Opcode c)) (cap : Option (Levels c)) (s : Block c) :
    edge (inputsOf op cap false) s = (edge (inputsOf op none false) s).withCapture cap := by
  cases op with
  | none => rw [edge_idle, edge_idle, withCapture_none]
  | some op => rw [edge_command, edge_command, withCapture_none]

/-- Settles O17: the instruction is the capture of its pins, a step's capture comes after its command, and a reset step
loads the reset state. -/
theorem captureWritesLevelsAndSetsTheFlag : Obligations.CaptureWritesLevelsAndSetsTheFlag := by
  intro s pins op S
  refine ⟨?_, fun t hrun => ?_, fun first t hrun => ?_, ?_⟩
  · rw [exec_eq_effect, effect_capture]
    rfl
  · obtain rfl := (run_one_iff _ S t).1 hrun
    exact (run_one_iff _ S _).2 (edge_inputsOf_capture op (some pins) S).symm
  · obtain rfl := (run_iff _ S t).1 hrun
    exact ⟨rfl, rfl⟩
  · exact (run_one_iff _ S _).2 (edge_reset op (some pins) S).symm

/-! ### The levels and the flag after a run -/

/-- After any run the levels are those of the latest step that captured or reset, and without one what they were (R84). -/
theorem edges_L (xs : List (Inputs c)) (s : Block c) :
    (edges xs s).L = (xs.reverse.find? fun i => i.rst || i.capStrobe).elim s.L
      fun i => if i.rst then c.resetLevels else i.capPins := by
  induction xs using List.reverseRecOn with
  | nil => rfl
  | append_singleton xs x ih =>
    rw [edges_append, edges_cons, edges_nil, edge_L, ih, List.reverse_concat, List.find?_cons]
    cases hrst : x.rst with
    | true => simp [hrst]
    | false => cases x.capStrobe <;> simp [hrst]

/-- Settles O40: the run's edges leave these levels. -/
theorem levelsAreTheLatestBurst : Obligations.LevelsAreTheLatestBurst := by
  intro c xs s t hrun
  obtain rfl := (run_iff xs s t).1 hrun
  rw [edges_L]
  cases xs.reverse.find? fun i => i.rst || i.capStrobe <;> rfl

/-- Without a capture, levels at RESET_LEVELS stay there (R84). -/
theorem edges_L_of_no_capture {xs : List (Inputs c)} {s : Block c} (hs : s.L = c.resetLevels)
    (hxs : ∀ i ∈ xs, captured? i = none) : (edges xs s).L = c.resetLevels := by
  rw [edges_L, hs]
  cases hfind : xs.reverse.find? fun i => i.rst || i.capStrobe with
  | none => rfl
  | some i =>
    have hi : i.rst = true ∨ i.capStrobe = true := by simpa using List.find?_some hfind
    have hmem : i ∈ xs := List.mem_reverse.1 (List.mem_of_find?_eq_some hfind)
    have hnone : i.rst = true ∨ i.capStrobe = false := (captured?_none i).1 (hxs i hmem)
    have hrst : i.rst = true := hi.elim id fun hcap => hnone.resolve_right (by simp [hcap])
    exact if_pos hrst

/-- Without a reset, an edge leaves the levels its capture brings, or those there were. -/
theorem edge_L_of_not_rst {x : Inputs c} (hrst : x.rst = false) (s : Block c) : (edge x s).L = (captured? x).getD s.L := by
  rw [edge_L]
  cases hcap : x.capStrobe <;> simp [captured?, hrst, hcap]

/-- An edge that neither resets nor polls leaves the flag set just where it captures or the flag was set (10_state.md R22). -/
theorem edge_CF_of_not_poll {x : Inputs c} (hrst : x.rst = false) (hpoll : ¬ IsPoll x) (s : Block c) :
    (edge x s).CF = ((captured? x).isSome || s.CF) := by
  have hpoll : presentsPoll x = false := Bool.eq_false_iff.2 fun h => hpoll ((isPoll_iff x).2 ⟨hrst, h⟩)
  rw [edge_CF]
  cases hcap : x.capStrobe <;> simp [captured?, hrst, hpoll, hcap]

/-- The last capture of a list of steps that has one more. -/
theorem getLast?_captures_concat (xs : List (Inputs c)) (x : Inputs c) :
    ((xs ++ [x]).filterMap captured?).getLast? = (captured? x).or (xs.filterMap captured?).getLast? := by
  cases hx : captured? x <;> simp [List.filterMap_append, hx]

/-- Over steps without a reset, the levels are those of the last capture, or what they were (R83, R84). -/
theorem edges_L_of_no_reset {xs : List (Inputs c)} (hxs : ∀ i ∈ xs, i.rst = false) (s : Block c) :
    (edges xs s).L = (xs.filterMap captured?).getLast?.getD s.L := by
  induction xs using List.reverseRecOn with
  | nil => rfl
  | append_singleton xs x ih =>
    obtain ⟨hxs, hx⟩ := List.forall_mem_append.1 hxs
    rw [edges_append, edges_cons, edges_nil, edge_L_of_not_rst (hx x (List.mem_singleton_self x)), ih hxs,
      getLast?_captures_concat]
    cases captured? x <;> rfl

/-- Over steps without a reset or a poll, the flag is set just where one of them captures or it was set (R83). -/
theorem edges_CF_of_no_poll {xs : List (Inputs c)} (hxs : ∀ i ∈ xs, i.rst = false ∧ ¬ IsPoll i) (s : Block c) :
    (edges xs s).CF = ((xs.filterMap captured?).getLast?.isSome || s.CF) := by
  induction xs using List.reverseRecOn with
  | nil => rfl
  | append_singleton xs x ih =>
    obtain ⟨hxs, hx⟩ := List.forall_mem_append.1 hxs
    obtain ⟨hrst, hpoll⟩ := hx x (List.mem_singleton_self x)
    rw [edges_append, edges_cons, edges_nil, edge_CF_of_not_poll hrst hpoll, ih hxs, getLast?_captures_concat]
    cases captured? x <;> rfl

/-! ### SNAPSHOT -/

/-- By default SNAPSHOT's data is the levels themselves (30_encoding.md R67). -/
theorem snapshotData_default (v : Levels Config.default) : snapshotData Config.default v = v := BitVec.setWidth_eq v

/-- A step that leaves the state as it is may be repeated. -/
theorem edges_replicate_of_fixed {x : Inputs c} {s : Block c} (h : edge x s = s) (n : Nat) :
    edges (List.replicate n x) s = s := by
  induction n with
  | zero => rfl
  | succ n ih => rw [List.replicate_succ, edges_cons, h, ih]

/-- Settles O18: SNAPSHOT's effect beside the capture of its step; its answer leaves the levels, so it finds the same again;
and the levels after a reset without a capture. -/
theorem snapshotAnswersTheLevels : Obligations.SnapshotAnswersTheLevels := by
  refine ⟨rfl, snapshotData_default, ?_⟩
  intro s cap S T
  refine ⟨fun hfit i => ?_, rfl, fun op hop => ⟨?_, fun n => ?_⟩, fun xs t hxs hrun => ?_⟩
  · exact snapshotData_bits hfit S.L i
  · rw [run_one_iff, edge_command, hop]
    rfl
  · have hfirst : edge (inputsOf (some op) none false) S = T := by rw [edge_command, hop]; rfl
    have hagain : edge (inputsOf (some op) none false) T = T := by rw [edge_command, hop]; rfl
    rw [run_iff, List.replicate_succ, edges_cons, hfirst, edges_replicate_of_fixed hagain]
  · obtain rfl := (run_iff xs _ t).1 hrun
    have hL := edges_L_of_no_capture (Block.resetState_L (c := s.cfg)) hxs
    refine ⟨hL, ?_⟩
    rw [exec_eq_effect, ← hL]
    rfl

/-! ### The polls of the ChangedFlag -/

/-- CONSUME_CHANGED answers the flag and clears it (R82). -/
theorem effect_consumeChanged (s : Block c) : effect .consumeChanged s =
    { s with CF := false, respValid := true, respData := answer c s.CF, respErr := false } := by
  rw [answer, ← zext_eq]
  rfl

/-- A step with CONSUME_CHANGED answers the flag as it was before the step, whatever its capture port carries (R82). -/
theorem edge_consume_respData {op : Opcode c} (h : decodeCommand c op = .consumeChanged) (cap : Option (Levels c)) (s : Block c) :
    (edge (inputsOf (some op) cap false) s).respData = answer c s.CF := by
  rw [edge_command, h, effect_consumeChanged]
  cases cap <;> rfl

/-- Each tracker's UPDATE is a poll (10_state.md R22). -/
theorem updateOf_mem_polls (t : TrackerId) : updateOf t ∈ [Instr.consumeChanged, .rotUpdate, .snzUpdate] := by
  cases t <;> decide

/-- A step with a poll and no capture leaves the flag clear (R22). -/
theorem edge_poll_CF {op : Opcode c} (h : decodeCommand c op ∈ [Instr.consumeChanged, .rotUpdate, .snzUpdate]) (s : Block c) :
    (edge (inputsOf (some op) none false) s).CF = false := by
  rw [edge_command, withCapture_none, effect_poll_CF h]

/-- An UPDATE that finds the flag clear computes `rc = 0` (41_debounce_trackers.md R109). -/
theorem edge_update_rc_of_noFlag {t : TrackerId} {op : Opcode c} (h : decodeCommand c op = updateOf t)
    (cap : Option (Levels c)) {s : Block c} (hs : s.CF = false) :
    ((edge (inputsOf (some op) cap false) s).tracker t).rc = false := by
  rw [edge_update_tracker h, hs, relevantChange_noFlag]

/-- Settles O19: the flag that CONSUME_CHANGED answers, and a later UPDATE tests, is the one the step before left. -/
theorem consumeChangedTestsAndClears : Obligations.ConsumeChangedTestsAndClears := by
  refine ⟨rfl, ?_⟩
  intro s cap S T
  refine ⟨?_, fun op hop => ?_⟩
  · rw [exec_eq_effect, effect_consumeChanged]
  have hpoll : decodeCommand s.cfg op ∈ [Instr.consumeChanged, .rotUpdate, .snzUpdate] := by simp [hop]
  refine ⟨?_, fun pins t hrun => ?_, fun t hrun => ?_, fun pins t hrun => ?_, fun tr upd t hupd hrun => ?_⟩
  · rw [run_one_iff, edge_command, hop, effect_consumeChanged]
  all_goals
    obtain rfl := (run_iff _ S t).1 hrun
    rw [edges_cons, edges_cons, edges_nil]
  · rw [edge_consume_respData hop, edge_inputsOf_capture, withCapture_some, Block.capture_CF]
  · rw [edge_consume_respData hop, edge_poll_CF hpoll]
  · rw [edge_consume_respData hop, edge_inputsOf_capture, withCapture_some, Block.capture_CF]
  · exact edge_update_rc_of_noFlag hupd none (edge_poll_CF hpoll S)

/-- Settles O39: the steps leave the last capture's pins and the flag set; the first poll then sees them and clears the
flag, so that the next sees none. -/
theorem capturesBetweenPollsCollapse : Obligations.CapturesBetweenPollsCollapse := by
  intro c xs s t hxs hrun pins hlast
  obtain rfl := (run_iff xs s t).1 hrun
  have hL : (edges xs s).L = pins := by
    rw [edges_L_of_no_reset fun i hi => (hxs i hi).1, hlast, Option.getD_some]
  have hCF : (edges xs s).CF = true := by
    rw [edges_CF_of_no_poll hxs, hlast, Option.isSome_some, Bool.true_or]
  refine ⟨hL, hCF, fun op u hop => ⟨fun hu => ?_, fun hu => ?_⟩, fun tr op u hop hu => ⟨?_, fun v hv => ?_⟩⟩
  · obtain rfl := (run_one_iff _ _ u).1 hu
    rw [edge_consume_respData hop, hCF]
  · obtain rfl := (run_iff _ _ u).1 hu
    rw [edges_cons, edges_cons, edges_nil, edge_consume_respData hop, edge_poll_CF (by simp [hop])]
  · obtain rfl := (run_one_iff _ _ u).1 hu
    rw [edge_update_tracker hop, relevantChange_iff, hL, hCF, and_iff_right rfl]
  · obtain rfl := (run_one_iff _ _ u).1 hu
    obtain rfl := (run_one_iff _ _ v).1 hv
    exact edge_update_rc_of_noFlag hop none (edge_poll_CF (hop ▸ updateOf_mem_polls tr) _)

end Sys2Proof.Machine
end

section
/-! PROOFS. The tracker statements (41_debounce_trackers.md): what an UPDATE and a query do, beside any capture and over any
run, which poll reports a change, and what the rotary tracker cannot see. -/

namespace Sys2Proof.Machine

variable {c : Config}

/-! ### What a tracker's commands do -/

/-- A step asks for a query of the tracker just where its opcode decodes to one. -/
theorem isQuery_iff_mem (t : TrackerId) (x : Inputs c) :
    IsQuery t x ↔ x.rst = false ∧ x.cmdValid = true ∧ decodeCommand c x.cmdOp ∈ queriesOf t := by
  cases t with
  | rot =>
    simp only [IsQuery, command?_iff, queriesOf, List.mem_cons, List.not_mem_nil, or_false]
    tauto
  | snz => simp only [IsQuery, command?_iff, queriesOf, List.mem_singleton]

/-- One command is not both an UPDATE and a query of the same tracker. -/
theorem updateOf_notMem_queriesOf (t : TrackerId) : updateOf t ∉ queriesOf t := by cases t <;> decide

/-- The tests the queries of a tracker make of its previous levels (R105, R106, R108). -/
def testsOf (c : Config) : TrackerId → List (Levels c → Bool)
  | .rot => [phase c, rotaryPressed c]
  | .snz => [snoozePressed c]

/-- A query command is the single-shot query of its tracker with one of the tracker's tests (R102). -/
theorem effect_of_mem_queriesOf {t : TrackerId} {i : Instr} (hi : i ∈ queriesOf t) :
    ∃ test ∈ testsOf c t, ∀ s : Block c, effect i s = s.query t test := by
  cases t with
  | rot =>
    obtain rfl | rfl : i = .rotCw ∨ i = .rotPress := by simpa [queriesOf] using hi
    · exact ⟨phase c, by simp [testsOf], fun _ => rfl⟩
    · exact ⟨rotaryPressed c, by simp [testsOf], fun _ => rfl⟩
  | snz =>
    obtain rfl : i = .snzPress := by simpa [queriesOf] using hi
    exact ⟨snoozePressed c, by simp [testsOf], fun _ => rfl⟩

/-- An UPDATE command is the Update of its tracker (R103). -/
theorem effect_updateOf (t : TrackerId) (s : Block c) : effect (updateOf t) s = s.update t := by cases t <;> rfl

namespace Block

/-- What an UPDATE leaves of a tracker that is built (R103). -/
theorem update_tracker_self {t : TrackerId} (hb : t.built c = true) (s : Block c) : (s.update t).tracker t =
    { prev := s.L, rc := relevantChange s.CF (watchMask c t) s.L (s.tracker t).prev } :=
  s.tracker_setTracker_self hb _

/-- An UPDATE leaves the other tracker alone (R103). -/
theorem update_tracker_ne {t t' : TrackerId} (h : t' ≠ t) (s : Block c) : (s.update t).tracker t' = s.tracker t' :=
  s.tracker_setTracker_ne h _

/-- The record an UPDATE writes, its rc written out (R103). -/
theorem update_eq_decide (s : Block c) (t : TrackerId) : s.update t =
    { s.setTracker t
        { prev := s.L, rc := s.CF && decide (s.L &&& watchMask c t ≠ (s.tracker t).prev &&& watchMask c t) } with
      CF := false, respValid := true, respData := 0#c.respWidth, respErr := false } := by
  rw [update_eq, relevantChange_eq]

/-- What an UPDATE does depends on no rc (R113). -/
theorem update_setTracker_rc (s : Block c) (t : TrackerId) (b : Bool) :
    (s.setTracker t { prev := (s.tracker t).prev, rc := b }).update t = s.update t := by
  cases hb : t.built c with
  | false => rw [s.setTracker_unbuilt hb]
  | true => rw [update_eq, update_eq, s.tracker_setTracker_self hb, setTracker_setTracker]; rfl

/-- A second UPDATE in a row finds the flag consumed and the same levels (R104). -/
theorem update_update (s : Block c) (t : TrackerId) :
    (s.update t).update t = (s.update t).setTracker t { prev := s.L, rc := false } := rfl

/-- A query leaves the other tracker alone (R102). -/
theorem query_tracker_ne {t t' : TrackerId} (h : t' ≠ t) (s : Block c) (test : Levels c → Bool) :
    (s.query t test).tracker t' = s.tracker t' :=
  s.tracker_setTracker_ne h _

/-- All that a query does, its answer as the response table has it (30_encoding.md R67). -/
theorem query_eq_answer (s : Block c) (t : TrackerId) (test : Levels c → Bool) : s.query t test =
    { s.setTracker t { prev := (s.tracker t).prev, rc := false } with
      respValid := true
      respData := answer c ((s.tracker t).rc && test (s.tracker t).prev)
      respErr := false } := by
  rw [query_eq, zext_eq]
  rfl

/-- A query of a tracker that has seen a change answers its test of the previous levels (R102). -/
theorem query_respData_of_change {s : Block c} {t : TrackerId} {v : Levels c} (h : s.tracker t = { prev := v, rc := true })
    (test : Levels c → Bool) : (s.query t test).respData = answer c (test v) := by
  rw [query_respData, h, Bool.true_and]

/-- A query neither reads nor writes the other tracker's record (R108). -/
theorem query_setTracker_ne {t t' : TrackerId} (h : t' ≠ t) (s : Block c) (k : Tracker c) (test : Levels c → Bool) :
    (s.setTracker t' k).query t test = (s.query t test).setTracker t' k := by
  rw [query_eq, query_eq, tracker_setTracker_ne _ h.symm, setTracker_comm _ h.symm]
  rfl

end Block

/-! ### The edge of a step, by what it asks of a tracker -/

/-- The record after an UPDATE of the tracker (R103). -/
theorem edge_tracker_of_update {t : TrackerId} {x : Inputs c} (h : IsUpdate t x) (s : Block c) : (edge x s).tracker t =
    { prev := s.L, rc := relevantChange s.CF (watchMask c t) s.L (s.tracker t).prev } := by
  obtain ⟨hrst, hupd⟩ := (isUpdate_iff t x).1 h
  rw [edge_tracker, hrst, hupd]
  rfl

/-- The record after a query of the tracker, whatever the query answered (R102). -/
theorem edge_tracker_of_query {t : TrackerId} {x : Inputs c} (h : IsQuery t x) (s : Block c) :
    (edge x s).tracker t = { prev := (s.tracker t).prev, rc := false } := by
  obtain ⟨hrst, hqry⟩ := (isQuery_iff t x).1 h
  have hupd : ¬ presentsUpdate t x = true := fun hu =>
    Bool.false_ne_true ((presentsQuery_of_update t x hu).symm.trans hqry)
  rw [edge_tracker, hrst, if_neg hupd, hqry]
  rfl

/-- The tracker's previous levels after a step (10_state.md R23). -/
theorem edge_prev (t : TrackerId) (x : Inputs c) (s : Block c) : ((edge x s).tracker t).prev =
    if x.rst then c.resetLevels else if presentsUpdate t x then s.L else (s.tracker t).prev := by
  simp only [edge_tracker, apply_ite Tracker.prev, ite_self]

/-- The tracker's relevantChange after a step (10_state.md R25). -/
theorem edge_rc (t : TrackerId) (x : Inputs c) (s : Block c) : ((edge x s).tracker t).rc =
    if x.rst then false
    else if presentsUpdate t x then relevantChange s.CF (watchMask c t) s.L (s.tracker t).prev
    else if presentsQuery t x then false
    else (s.tracker t).rc := by
  simp only [edge_tracker, apply_ite Tracker.rc]

/-- A step that neither resets nor updates leaves the tracker's previous levels (10_state.md R23). -/
theorem edge_prev_of_not_update {t : TrackerId} {x : Inputs c} (hrst : x.rst = false) (h : ¬ IsUpdate t x) (s : Block c) :
    ((edge x s).tracker t).prev = (s.tracker t).prev := by
  have hupd : ¬ presentsUpdate t x = true := fun hu => h ((isUpdate_iff t x).2 ⟨hrst, hu⟩)
  rw [edge_prev, hrst, if_neg hupd]
  rfl

/-- A step that does none of resetting, updating and querying leaves the tracker's record (R113). -/
theorem edge_tracker_of_other {t : TrackerId} {x : Inputs c} (hrst : x.rst = false) (hu : ¬ IsUpdate t x) (hq : ¬ IsQuery t x)
    (s : Block c) : (edge x s).tracker t = s.tracker t := by
  obtain ⟨-, -, -, hother⟩ := trackerTransitionsAreAsTabled c t x s _ (run_edges [x] s)
  exact hother hrst hu hq

/-- Only the tracker's UPDATE takes it out of Idle (10_state.md R25). -/
theorem edge_rc_of_not_update {t : TrackerId} {x : Inputs c} (h : ¬ IsUpdate t x) {s : Block c} (hs : (s.tracker t).rc = false) :
    ((edge x s).tracker t).rc = false := by
  cases hrst : x.rst with
  | true => rw [edge_of_rst hrst, Block.resetState_tracker]
  | false =>
    by_cases hq : IsQuery t x
    · rw [edge_tracker_of_query hq]
    · rw [edge_tracker_of_other hrst h hq, hs]

/-- The response of a query step is the answer of one of its tracker's tests to the tracker's record, and of nothing else
(R102). -/
theorem edge_outputs_of_query {t : TrackerId} {x : Inputs c} (h : IsQuery t x) :
    ∃ test ∈ testsOf c t, ∀ s : Block c, (edge x s).outputs =
      { respValid := true, respData := answer c ((s.tracker t).rc && test (s.tracker t).prev), respErr := false } := by
  obtain ⟨hrst, hcmd, hop⟩ := (isQuery_iff_mem t x).1 h
  obtain ⟨test, hmem, heffect⟩ := effect_of_mem_queriesOf (c := c) hop
  refine ⟨test, hmem, fun s => ?_⟩
  rw [edge_outputs_command hrst hcmd, heffect, Block.query_eq_answer]
  rfl

/-- A query of an Idle tracker answers 0 (R102). -/
theorem edge_outputs_of_query_idle {t : TrackerId} {x : Inputs c} (h : IsQuery t x) {s : Block c}
    (hs : (s.tracker t).rc = false) :
    (edge x s).outputs = { respValid := true, respData := answer c false, respErr := false } := by
  obtain ⟨test, -, hout⟩ := edge_outputs_of_query h
  rw [hout, hs, Bool.false_and]

/-- The flag is set after a step just where the step captured, or left alone a flag that was set (10_state.md R22). -/
theorem edge_CF_iff (x : Inputs c) (s : Block c) : (edge x s).CF = true ↔
    (∃ pins, captured? x = some pins) ∨ (x.rst = false ∧ ¬ IsPoll x ∧ s.CF = true) := by
  rw [edge_CF]
  cases hrst : x.rst with
  | true => simp [captured?_some, hrst]
  | false =>
    cases hcap : x.capStrobe with
    | true => simp [captured?_some, hrst, hcap]
    | false => simp [captured?_some, isPoll_iff, hrst, hcap]

/-! ### Over a run -/

/-- Without a capture, a clear flag stays clear (R109). -/
theorem edges_CF_of_no_capture {xs : List (Inputs c)} (hxs : ∀ i ∈ xs, captured? i = none) {s : Block c} (hs : s.CF = false) :
    (edges xs s).CF = false := by
  induction xs generalizing s with
  | nil => exact hs
  | cons x xs ih =>
    obtain ⟨hx, hxs⟩ := List.forall_mem_cons.1 hxs
    refine ih hxs (Bool.eq_false_iff.2 fun hCF => ?_)
    simp [edge_CF_iff, hx, hs] at hCF

/-- A flag that is set at the end of a run was set by a capture, or was set before the run, and no poll or reset came after
(10_state.md R22). -/
theorem setter_of_edges_CF {xs : List (Inputs c)} {s : Block c} (h : (edges xs s).CF = true) :
    (∃ (ys zs : List (Inputs c)) (i : Inputs c) (pins : Levels c), xs = ys ++ i :: zs ∧ captured? i = some pins ∧
      ∀ j ∈ zs, j.rst = false ∧ ¬ IsPoll j) ∨
    (s.CF = true ∧ ∀ j ∈ xs, j.rst = false ∧ ¬ IsPoll j) := by
  induction xs using List.reverseRecOn with
  | nil => exact .inr ⟨h, by simp⟩
  | append_singleton xs x ih =>
    rw [edges_append, edges_cons, edges_nil, edge_CF_iff] at h
    obtain ⟨pins, hcap⟩ | ⟨hrst, hpoll, hCF⟩ := h
    · exact .inl ⟨xs, [], x, pins, rfl, hcap, by simp⟩
    have hx : ∀ j ∈ [x], j.rst = false ∧ ¬ IsPoll j := by simpa using ⟨hrst, hpoll⟩
    obtain ⟨ys, zs, i, pins, rfl, hcap, hzs⟩ | ⟨hs, hxs⟩ := ih hCF
    · exact .inl ⟨ys, zs ++ [x], i, pins, by simp, hcap, List.forall_mem_append.2 ⟨hzs, hx⟩⟩
    · exact .inr ⟨hs, List.forall_mem_append.2 ⟨hxs, hx⟩⟩

/-- Without its UPDATE, an Idle tracker stays Idle (R111). -/
theorem edges_rc_of_no_update {t : TrackerId} {xs : List (Inputs c)} (hxs : ∀ i ∈ xs, ¬ IsUpdate t i) {s : Block c}
    (hs : (s.tracker t).rc = false) : ((edges xs s).tracker t).rc = false := by
  induction xs generalizing s with
  | nil => exact hs
  | cons x xs ih =>
    obtain ⟨hx, hxs⟩ := List.forall_mem_cons.1 hxs
    exact ih hxs (edge_rc_of_not_update hx hs)

/-- Without its UPDATE or a reset, a tracker keeps its previous levels (10_state.md R23). -/
theorem edges_prev_of_no_update {t : TrackerId} {xs : List (Inputs c)} (hxs : ∀ i ∈ xs, i.rst = false ∧ ¬ IsUpdate t i)
    (s : Block c) : ((edges xs s).tracker t).prev = (s.tracker t).prev := by
  induction xs generalizing s with
  | nil => rfl
  | cons x xs ih =>
    obtain ⟨⟨hrst, hupd⟩, hxs⟩ := List.forall_mem_cons.1 hxs
    rw [edges_cons, ih hxs, edge_prev_of_not_update hrst hupd]

/-- Without its UPDATE, a query of it or a reset, a tracker keeps its record (R113). -/
theorem edges_tracker_of_untouched {t : TrackerId} {xs : List (Inputs c)}
    (hxs : ∀ i ∈ xs, i.rst = false ∧ ¬ IsUpdate t i ∧ ¬ IsQuery t i) (s : Block c) :
    (edges xs s).tracker t = s.tracker t := by
  induction xs generalizing s with
  | nil => rfl
  | cons x xs ih =>
    obtain ⟨⟨hrst, hupd, hqry⟩, hxs⟩ := List.forall_mem_cons.1 hxs
    rw [edges_cons, ih hxs, edge_tracker_of_other hrst hupd hqry]

/-! ### Who reports a change, and to whom -/

/-- Settles O26: the query step writes the record back with `rc = 0`, and its response reads that record alone. -/
theorem queriesReadOnlyTheirTrackerAndClearIt : Obligations.QueriesReadOnlyTheirTrackerAndClearIt := by
  intro c tr q s t hq hrun
  obtain rfl := (run_one_iff q s t).1 hrun
  refine ⟨edge_tracker_of_query hq s, fun s' t' hs hrun' => ?_⟩
  obtain rfl := (run_one_iff q s' t').1 hrun'
  obtain ⟨test, -, hout⟩ := edge_outputs_of_query hq
  rw [hout, hout, hs]

/-- Settles O41: the poll clears the flag, nothing sets it again, and so the UPDATE finds it clear. -/
theorem laterPollersSeeNoChange : Obligations.LaterPollersSeeNoChange := by
  intro c xs p tr upd s t hp hcap hxs hupd hrun
  obtain rfl := (run_snoc (p :: xs) upd s t).1 hrun
  have hpolled : (edge p s).CF = false := Bool.eq_false_iff.2 fun hCF => by simp [edge_CF_iff, hcap, hp] at hCF
  have hCF : (edges (p :: xs) s).CF = false := edges_CF_of_no_capture (fun i hi => (hxs i hi).2) hpolled
  rw [edge_tracker_of_update hupd, hCF, relevantChange_noFlag]
  refine ⟨rfl, fun hnone => ?_⟩
  rw [edge_L_of_not_rst ((isUpdate_iff tr upd).1 hupd).1, hnone, Option.getD_none]

/-- Settles O42: an UPDATE that computes `rc = 1` finds the flag set, and the flag was set by a capture or from the start. -/
theorem reportedChangeIsTheFirstPoll : Obligations.ReportedChangeIsTheFirstPoll := by
  intro c xs tr upd s t hupd hrun hrc
  obtain rfl := (run_snoc xs upd s t).1 hrun
  rw [edge_tracker_of_update hupd, relevantChange_iff] at hrc
  exact setter_of_edges_CF hrc.1

/-- Settles O44: the first query leaves the tracker Idle, and without an UPDATE it stays so. -/
theorem oneQueryAnswerPerUpdate : Obligations.OneQueryAnswerPerUpdate := by
  intro c tr q q' xs s t hq hq' hxs hrun
  obtain rfl := (run_snoc (q :: xs) q' s t).1 hrun
  have hidle : ((edges (q :: xs) s).tracker tr).rc = false :=
    edges_rc_of_no_update hxs (congrArg Tracker.rc (edge_tracker_of_query hq s))
  have hout := edge_outputs_of_query_idle hq' hidle
  exact ⟨congrArg Outputs.respValid hout, congrArg Outputs.respData hout⟩

/-- Settles O45: the UPDATE compares the last capture's pins with the previous levels from before the bounce. -/
theorem bounceBackIsFiltered : Obligations.BounceBackIsFiltered := by
  intro c tr xs upd pins s t hxs hlast hback hupd hrun
  obtain rfl := (run_snoc xs upd s t).1 hrun
  have hL : (edges xs s).L = pins := by
    rw [edges_L_of_no_reset fun i hi => (hxs i hi).1, hlast, Option.getD_some]
  rw [edge_tracker_of_update hupd, hL, edges_prev_of_no_update hxs, relevantChange_eq, hback]
  simp

/-- Settles O46: no step touched the record, and an UPDATE of any tracker is the same whatever rc it finds. -/
theorem unqueriedChangePersistsOnlyUntilTheNextUpdate : Obligations.UnqueriedChangePersistsOnlyUntilTheNextUpdate := by
  intro c tr xs s t hxs hrun
  obtain rfl := (run_iff xs s t).1 hrun
  refine ⟨edges_tracker_of_untouched hxs s, fun upd b u u' hupd hu hu' => ?_⟩
  obtain rfl := (run_one_iff upd _ u).1 hu
  obtain rfl := (run_one_iff upd _ u').1 hu'
  obtain ⟨hrst, hcmd, hop⟩ := (command?_iff upd _).1 hupd
  rw [edge_of_not_rst hrst, edge_of_not_rst hrst, if_pos hcmd, if_pos hcmd, hop, effect_updateOf, effect_updateOf,
    Block.update_setTracker_rc]

/-! ### The snooze line and the rotary tracker -/

/-- Levels that differ at most in the snooze bit agree on every other line. -/
theorem AgreeButSnooze.level_eq {v w : Levels c} (h : AgreeButSnooze c v w) {l : Line}
    (hl : lineBit c.lines l ≠ c.lines.snoozeButton) : level c v l = level c w l := h _ hl

/-- Levels that differ at most in the snooze bit are equal under a mask that leaves it out (R101). -/
theorem AgreeButSnooze.and_mask {v w m : Levels c} (h : AgreeButSnooze c v w) (hm : m.getLsbD c.lines.snoozeButton = false) :
    v &&& m = w &&& m := by
  apply BitVec.eq_of_getLsbD_eq
  intro i hi
  rw [BitVec.getLsbD_and, BitVec.getLsbD_and]
  by_cases hs : (⟨i, hi⟩ : Fin c.nLevels) = c.lines.snoozeButton
  · rw [show m.getLsbD i = false by rw [← hm, ← hs], Bool.and_false, Bool.and_false]
  · rw [show v.getLsbD i = w.getLsbD i from h ⟨i, hi⟩ hs]

/-- Steps that differ at most in snooze levels present the same commands. -/
theorem InputsButSnooze.presents_eq {x y : Inputs c} (h : InputsButSnooze x y) (n built : Nat) :
    presents n built x = presents n built y := by
  obtain ⟨-, hvalid, hop, -, -⟩ := h
  rw [presents, presents, hvalid, hop]

/-- Steps that differ at most in snooze levels keep equal, the snooze level aside, all that the rotary tracker reads. -/
theorem RotaryAgree.step {s t : Block c} (h : RotaryAgree s t) (hm : c.rotWatch.getLsbD c.lines.snoozeButton = false)
    {x y : Inputs c} (hxy : InputsButSnooze x y) : RotaryAgree (edge x s) (edge y t) := by
  obtain ⟨levels, flag, prev, change⟩ := h
  have hpoll : presentsPoll x = presentsPoll y := by simp only [presentsPoll, hxy.presents_eq]
  have hupd : presentsUpdate .rot x = presentsUpdate .rot y := by simp only [presentsUpdate, hxy.presents_eq]
  have hqry : presentsQuery .rot x = presentsQuery .rot y := by simp only [presentsQuery, hxy.presents_eq]
  obtain ⟨hrst, -, -, hstrobe, hpins⟩ := hxy
  constructor
  case levels =>
    rw [edge_L, edge_L, hrst, hstrobe]
    split_ifs
    · exact fun _ _ => rfl
    · exact hpins
    · exact levels
  case flag => rw [edge_CF, edge_CF, hrst, hstrobe, hpoll, flag]
  case prev =>
    rw [edge_prev, edge_prev, hrst, hupd]
    split_ifs
    · exact fun _ _ => rfl
    · exact levels
    · exact prev
  case change =>
    rw [edge_rc, edge_rc, hrst, hupd, hqry, relevantChange_eq, relevantChange_eq, watchMask_rot, levels.and_mask hm,
      prev.and_mask hm, flag, change]

/-- Over runs whose inputs differ at most in snooze levels, all that the rotary tracker reads stays equal. -/
theorem RotaryAgree.run {xs ys : List (Inputs c)} (hxy : List.Forall₂ InputsButSnooze xs ys)
    (hm : c.rotWatch.getLsbD c.lines.snoozeButton = false) {s t : Block c} (h : RotaryAgree s t) :
    RotaryAgree (edges xs s) (edges ys t) := by
  induction hxy generalizing s t with
  | nil => exact h
  | cons hhead _ ih => exact ih (h.step hm hhead)

/-- With the snooze line on a bit of its own, the rotary queries' tests do not see it. -/
theorem AgreeButSnooze.test_eq {v w : Levels c} (h : AgreeButSnooze c v w)
    (hlines : c.lines.snoozeButton ∉ [c.lines.rotaryA, c.lines.rotaryB, c.lines.rotaryButton])
    {test : Levels c → Bool} (htest : test ∈ testsOf c .rot) : test v = test w := by
  obtain ⟨hA, hB, hbutton⟩ : c.lines.snoozeButton ≠ c.lines.rotaryA ∧ c.lines.snoozeButton ≠ c.lines.rotaryB ∧
    c.lines.snoozeButton ≠ c.lines.rotaryButton := by simpa using hlines
  obtain rfl | rfl : test = phase c ∨ test = rotaryPressed c := by simpa [testsOf] using htest
  · rw [phase, phase, h.level_eq (l := .rotaryA) hA.symm, h.level_eq (l := .rotaryB) hB.symm]
  · rw [rotaryPressed, rotaryPressed, h.level_eq (l := .rotaryButton) hbutton.symm]

/-- Settles O48: the two runs keep the rotary tracker's fields equal but for the snooze level, which no rotary query reads. -/
theorem snoozeLevelsDoNotReachTheRotaryQueries : Obligations.SnoozeLevelsDoNotReachTheRotaryQueries := by
  intro c xs ys s t s' t' hlines hm hagree hxy hrun hrun'
  obtain rfl := (run_iff xs s s').1 hrun
  obtain rfl := (run_iff ys t t').1 hrun'
  have hend := hagree.run hxy hm
  refine ⟨hend, fun q u u' hq hu hu' => ?_⟩
  obtain rfl := (run_one_iff q _ u).1 hu
  obtain rfl := (run_one_iff q _ u').1 hu'
  obtain ⟨test, htest, hout⟩ := edge_outputs_of_query hq
  rw [hout, hout, hend.change, hend.prev.test_eq hlines htest]

/-! ### What a clear flag means -/

/-- A step without CONSUME_CHANGED leaves the flag clear by a reset, by an UPDATE, whose tracker then holds the levels, or
by leaving a clear flag, the levels and both trackers' previous levels alone (R80, R103). -/
theorem edge_levelsSeen {s : Block c} (hs : s.LevelsSeen) {x : Inputs c} (hx : command? x ≠ some .consumeChanged) :
    (edge x s).LevelsSeen := by
  intro hCF
  cases hrst : x.rst with
  | true =>
    rw [edge_of_rst hrst, Block.resetState_tracker]
    exact .inl rfl
  | false =>
    obtain ⟨hcap, hflag⟩ := not_or.1 (mt (edge_CF_iff x s).2 (Bool.eq_false_iff.1 hCF))
    have hL : (edge x s).L = s.L := by
      rw [edge_L_of_not_rst hrst, Option.eq_none_iff_forall_ne_some.2 (not_exists.1 hcap), Option.getD_none]
    rw [hL]
    by_cases hrot : IsUpdate .rot x
    · exact .inl (by rw [edge_tracker_of_update hrot])
    by_cases hsnz : IsUpdate .snz x
    · exact .inr (by rw [edge_tracker_of_update hsnz])
    have hpoll : ¬ IsPoll x := fun hpoll => hpoll.elim hx (Or.elim · hrot hsnz)
    rw [edge_prev_of_not_update hrst hrot, edge_prev_of_not_update hrst hsnz]
    exact hs (Bool.eq_false_iff.2 fun hset => hflag ⟨hrst, hpoll, hset⟩)

/-- Settles O53: the step is an edge, which keeps the property. -/
theorem withoutConsumeAClearFlagMeansATrackerHoldsTheLevels :
    Obligations.WithoutConsumeAClearFlagMeansATrackerHoldsTheLevels := by
  intro s t hseen hconsume ht
  obtain rfl := (step_next_iff s t).1 ht
  exact edge_levelsSeen hseen hconsume

/-! ### The UPDATEs -/

/-- A step with a tracker's UPDATE: the records it leaves, the step with a capture, and the UPDATE repeated (R104, R107). -/
theorem update_command {t t' : TrackerId} (hne : t' ≠ t) {op : Opcode c} (hop : decodeCommand c op = updateOf t) (s : Block c)
    (cap : Option (Levels c)) :
    (s.update t).tracker t =
      { prev := s.L, rc := s.CF && decide (s.L &&& watchMask c t ≠ (s.tracker t).prev &&& watchMask c t) } ∧
    (s.update t).tracker t' = s.tracker t' ∧
    Run [inputsOf (some op) cap false] s ((s.update t).withCapture cap) ∧
    Run [inputsOf (some op) none false, inputsOf (some op) none false] s
      ((s.update t).setTracker t { prev := s.L, rc := false }) := by
  refine ⟨?_, Block.update_tracker_ne hne s, ?_, ?_⟩
  · have hrecord := effect_tracker t op s
    rwa [hop, if_pos rfl, effect_updateOf, relevantChange_eq] at hrecord
  · rw [run_one_iff, edge_command, hop, effect_updateOf]
  · rw [run_iff, edges_cons, edges_cons, edges_nil, edge_command, edge_command, hop, effect_updateOf, effect_updateOf,
      withCapture_none, withCapture_none, Block.update_update]

/-- Settles O20: the state is the rotary tracker's update. -/
theorem rotUpdateComputesTheRotaryChange : Obligations.RotUpdateComputesTheRotaryChange := by
  refine ⟨rfl, ?_⟩
  intro s cap S k T
  have hT : S.update .rot = T := S.update_eq_decide .rot
  rw [← hT]
  exact ⟨exec_eq_effect .rotUpdate s, fun op hop => update_command (t := .rot) (t' := .snz) (by decide) hop S cap⟩

/-- Settles O21: the state is the snooze tracker's update. -/
theorem snzUpdateComputesTheSnoozeChange : Obligations.SnzUpdateComputesTheSnoozeChange := by
  refine ⟨rfl, ?_⟩
  intro s cap S k T
  have hT : S.update .snz = T := S.update_eq_decide .snz
  rw [← hT]
  exact ⟨exec_eq_effect .snzUpdate s, fun op hop => update_command (t := .snz) (t' := .rot) (by decide) hop S cap⟩

/-- Settles O22: the state is the tracker's update, which reads no rc. -/
theorem updateIsSharedByBothTrackers : Obligations.UpdateIsSharedByBothTrackers := by
  intro t s hb
  have hexec (S : Block s.cfg) : exec (updateOf t) { s with block := S } = .next { s with block := S.update t } := by
    rw [exec_eq_effect, effect_updateOf]
  refine ⟨s.block.update t, hexec s.block, rfl, rfl, rfl, ?_, ?_, fun hmask => ?_,
    fun t' hne => Block.update_tracker_ne hne s.block, fun b => ?_⟩
  · rw [Block.update_tracker_self hb]
  · rw [Block.update_tracker_self hb, relevantChange_iff]
  · rw [Block.update_tracker_self hb, relevantChange_iff, hmask, BitVec.and_allOnes, BitVec.and_allOnes]
  · rw [hexec, Block.update_setTracker_rc]

/-! ### The queries -/

/-- A step with a query opcode is a query step, whatever its capture port carries. -/
theorem isQuery_inputsOf {t : TrackerId} {op : Opcode c} (hop : decodeCommand c op ∈ queriesOf t) (cap : Option (Levels c)) :
    IsQuery t (inputsOf (some op) cap false) :=
  (isQuery_iff_mem t _).2 ⟨rfl, rfl, hop⟩

/-- A step with a query of a tracker: the records it leaves, the step with a capture, and the answer of the next query of the
tracker (R102, R111). -/
theorem query_command {t t' : TrackerId} (hne : t' ≠ t) {op : Opcode c} (hop : decodeCommand c op ∈ queriesOf t) {s : Block c}
    {test : Levels c → Bool} (heffect : effect (decodeCommand c op) s = s.query t test) (cap : Option (Levels c)) :
    (s.query t test).tracker t = { prev := (s.tracker t).prev, rc := false } ∧
    (s.query t test).tracker t' = s.tracker t' ∧
    Run [inputsOf (some op) cap false] s ((s.query t test).withCapture cap) ∧
    ∀ (next : Opcode c) (u : Block c), decodeCommand c next ∈ queriesOf t →
      Run [inputsOf (some op) cap false, inputsOf (some next) none false] s u → u.respData = answer c false := by
  refine ⟨?_, Block.query_tracker_ne hne s test, ?_, fun next u hnext hrun => ?_⟩
  · have hupd : decodeCommand c op ≠ updateOf t := fun h => updateOf_notMem_queriesOf t (h ▸ hop)
    rw [← heffect, effect_tracker, if_neg hupd, if_pos hop]
  · rw [run_one_iff, edge_command, heffect]
  · exact (oneQueryAnswerPerUpdate c t _ _ [] s u (isQuery_inputsOf hop cap) (isQuery_inputsOf hnext none) (by simp) hrun).2

/-- Settles O23: the state is the rotary tracker's query with the phase test. -/
theorem rotCwAnswersThePhaseOnce : Obligations.RotCwAnswersThePhaseOnce := by
  refine ⟨rfl, ?_⟩
  intro s cap S k T
  have hT : S.query .rot (phase s.cfg) = T := S.query_eq_answer .rot (phase s.cfg)
  rw [← hT]
  refine ⟨fun hlines => ?_, exec_eq_effect .rotCw s, fun op hop => ?_⟩
  · rw [query_respData, phase, level_of_defaultLines hlines, level_of_defaultLines hlines]
    rfl
  · obtain ⟨hself, hother, hrun, hnext⟩ := query_command (t := .rot) (t' := .snz) (by decide) (by rw [hop]; decide)
      (test := phase s.cfg) (s := S) (by rw [hop]; rfl) cap
    exact ⟨hself, hother, hrun, fun next u h => hnext next u (by simpa [queriesOf] using h)⟩

/-- Settles O24: the state is the rotary tracker's query with the button test. -/
theorem rotPressAnswersTheButtonOnce : Obligations.RotPressAnswersTheButtonOnce := by
  refine ⟨rfl, ?_⟩
  intro s cap S k T
  have hT : S.query .rot (rotaryPressed s.cfg) = T := S.query_eq_answer .rot (rotaryPressed s.cfg)
  rw [← hT]
  refine ⟨fun hlines => ?_, exec_eq_effect .rotPress s, fun op hop => ?_⟩
  · rw [query_respData, rotaryPressed, level_of_defaultLines hlines]
    rfl
  · obtain ⟨hself, hother, hrun, hnext⟩ := query_command (t := .rot) (t' := .snz) (by decide) (by rw [hop]; decide)
      (test := rotaryPressed s.cfg) (s := S) (by rw [hop]; rfl) cap
    exact ⟨hself, hother, hrun, fun next u h => hnext next u (by simpa [queriesOf] using h)⟩

/-- Settles O25: the state is the snooze tracker's query with the button test, beside any rotary record. -/
theorem snzPressAnswersTheButtonOnce : Obligations.SnzPressAnswersTheButtonOnce := by
  refine ⟨rfl, ?_⟩
  intro s cap S k T
  have hT : S.query .snz (snoozePressed s.cfg) = T := S.query_eq_answer .snz (snoozePressed s.cfg)
  rw [← hT]
  refine ⟨fun hlines => ?_, exec_eq_effect .snzPress s, fun r => ?_, fun op hop => ?_⟩
  · rw [query_respData, snoozePressed, level_of_defaultLines hlines]
    rfl
  · rw [exec_eq_effect, ← Block.query_setTracker_ne (by decide)]
    rfl
  · obtain ⟨hself, hother, hrun, hnext⟩ := query_command (t := .snz) (t' := .rot) (by decide) (by rw [hop]; decide)
      (test := snoozePressed s.cfg) (s := S) (by rw [hop]; rfl) cap
    exact ⟨hself, hother, hrun, fun u => hnext op u (by rw [hop]; decide)⟩

/-! ### Levels by line -/

/-- Inverting all levels does not change the phase test (R100). -/
theorem phase_not (v : Levels c) : phase c (~~~v) = phase c v := by
  simp [phase, level]

/-- With a bit of its own for each line, the pins of a burst hold each line's level in its bit (40_input_capture.md R86). -/
theorem getLsbD_pinsOf (h : DistinctLines c) (f : Line → Bool) (l : Line) :
    (pinsOf c f).getLsbD (lineBit c.lines l) = f l := by
  simp only [DistinctLines, List.nodup_cons, List.mem_cons, List.not_mem_nil, or_false, not_or] at h
  obtain ⟨⟨hAB, hAr, hAs⟩, ⟨hBr, hBs⟩, hrs, -⟩ := h
  simp only [pinsOf, BitVec.getLsbD_or, getLsbD_oneBit]
  cases l with
  | rotaryA => simp [lineBit, hAB, hAr, hAs]
  | rotaryB => simp [lineBit, Ne.symm hAB, hBr, hBs]
  | rotaryButton => simp [lineBit, Ne.symm hAr, Ne.symm hBr, hrs]
  | snoozeButton => simp [lineBit, Ne.symm hAs, Ne.symm hBs, Ne.symm hrs]

/-- Settles O27: the pins by line, and each of the instructions by its effect on them. -/
theorem levelsAreStoredUninvertedAndReadByLine : Obligations.LevelsAreStoredUninvertedAndReadByLine := by
  refine ⟨fun c v => ⟨rfl, phase_not v, ?_, ?_⟩, ?_⟩
  · rw [rotaryPressed_eq, Bool.not_eq_true']
  · rw [snoozePressed_eq, Bool.not_eq_true']
  intro f s hlines pins
  have hpins : ∀ l, pins.getLsbD (lineBit s.cfg.lines l) = f l := getLsbD_pinsOf hlines f
  refine ⟨hpins, ⟨s.block.capture pins, ?_, rfl, ?_, fun tr hb => ?_⟩, fun hrot => ⟨?_, ?_⟩, fun hsnz => ?_⟩
  · rw [exec_eq_effect, effect_capture]
  · exact ⟨_, exec_eq_effect .snapshot _, fun hfit l => (snapshotData_bits hfit pins _).trans (hpins l)⟩
  · refine ⟨_, exec_eq_effect (updateOf tr) _, ?_⟩
    rw [effect_updateOf, Block.update_tracker_self hb]
    rfl
  · exact ⟨_, exec_eq_effect .rotPress s, (Block.query_respData_of_change hrot _).trans (by rw [← hpins .rotaryButton]; rfl)⟩
  · exact ⟨_, exec_eq_effect .rotCw s,
      (Block.query_respData_of_change hrot _).trans (by rw [← hpins .rotaryA, ← hpins .rotaryB]; rfl)⟩
  · exact ⟨_, exec_eq_effect .snzPress s, (Block.query_respData_of_change hsnz _).trans (by rw [← hpins .snoozeButton]; rfl)⟩

/-! ### The lost snooze press -/

/-- Settles O43: after the rotary UPDATE the snooze UPDATE finds no flag; before it, it finds the flag and the pins of the
capture. -/
theorem updateOrderDecidesWhichChangeIsLost : Obligations.UpdateOrderDecidesWhichChangeIsLost := by
  intro c s t pins rot snz press hrot hsnz hpress
  have hpoll : decodeCommand c rot ∈ [Instr.consumeChanged, .rotUpdate, .snzUpdate] := by simp [hrot]
  have hquery : decodeCommand c press ∈ queriesOf .snz := by rw [hpress]; decide
  refine ⟨fun hrun => ?_, fun hrun hchange hlow => ?_⟩
  · obtain rfl := (run_iff _ s t).1 hrun
    exact congrArg Outputs.respData (edge_outputs_of_query_idle (isQuery_inputsOf hquery none)
      (edge_update_rc_of_noFlag hsnz none (edge_poll_CF hpoll _)))
  · obtain rfl := (run_iff _ s t).1 hrun
    have hrecord : (edge (inputsOf (some snz) none false) (edge (inputsOf none (some pins) false) s)).tracker .snz =
        { prev := pins, rc := true } := by
      rw [edge_update_tracker (t := .snz) hsnz, edge_idle, withCapture_some, Block.capture_L, Block.capture_CF,
        Block.capture_tracker, Block.noResponse_tracker, watchMask_snz, (relevantChange_iff _ _ _ _).2 ⟨rfl, hchange⟩]
    rw [edges_cons, edges_cons, edges_cons, edges_nil, edge_command, hpress, withCapture_none]
    refine (Block.query_respData_of_change hrecord (snoozePressed c)).trans ?_
    rw [snoozePressed_eq, hlow]
    rfl

end Sys2Proof.Machine
end

section
/-! PROOFS. The control statements (42_control.md): NOP, the reserved opcodes and the idle step write the response registers
and nothing else, and no step reads the response the one before it left. -/

namespace Sys2Proof.Machine

variable {c : Config}

/-! ### NOP -/

/-- Taking back `resp_valid` from NOP's answer leaves the idle step's registers, whatever the capture port carries (R140,
R142). -/
theorem noResponse_withCapture (s : Block c) (cap : Option (Levels c)) :
    s.noResponse.withCapture cap = { (s.respond 0#c.respWidth false).withCapture cap with respValid := false } := by
  cases cap <;> rfl

/-- Settles O14: NOP's effect is the zero response, its step applies the capture to it, and the idle step's edge is that
edge with `resp_valid` taken back. -/
theorem nopOnlyAnswers : Obligations.NopOnlyAnswers := by
  refine ⟨rfl, fun s cap => ⟨exec_eq_effect .nop s, fun op hop => ?_⟩⟩
  have hedge : edge (inputsOf (some op) cap false) s.block = (s.block.respond 0#s.cfg.respWidth false).withCapture cap := by
    rw [edge_command, hop]
    rfl
  refine ⟨(run_one_iff _ _ _).2 hedge.symm, fun t hrun => ?_⟩
  obtain rfl := (run_one_iff _ _ t).1 hrun
  rw [run_one_iff, hedge, edge_idle, noResponse_withCapture]

/-! ### The reserved opcodes -/

/-- No command reads the response registers, and each writes all three (10_state.md R26). -/
theorem effect_respond {i : Instr} (hc : i.isCommand = true) (s : Block c) (d : RespData c) (e : Bool) :
    effect i (s.respond d e) = effect i s := by
  cases i with
  | capture => exact absurd hc Bool.false_ne_true
  | _ => rfl

/-- An idle step clears the response registers whatever they held (R142). -/
theorem noResponse_respond (s : Block c) (d : RespData c) (e : Bool) : (s.respond d e).noResponse = s.noResponse := rfl

/-- No edge depends on the response the step before it left (R26). -/
theorem edge_respond (x : Inputs c) (s : Block c) (d : RespData c) (e : Bool) : edge x (s.respond d e) = edge x s := by
  cases hrst : x.rst with
  | true => rw [edge_of_rst hrst, edge_of_rst hrst]
  | false =>
    rw [edge_of_not_rst hrst, edge_of_not_rst hrst, effect_respond (decodeCommand_isCommand c x.cmdOp),
      noResponse_respond]

/-- Settles O15: a reserved opcode's effect is the error response, whichever opcode it is; its step applies the capture to
it, and the next step's edge does not see it. -/
theorem reservedOpcodesOnlyAnswerAnError : Obligations.ReservedOpcodesOnlyAnswerAnError := by
  refine ⟨fun op hbit => ?_, fun s cap => ⟨fun op => exec_eq_effect (.reserved op) s, fun op ⟨r, hr⟩ => ?_⟩⟩
  · exact decodeCommand_reserved Config.default op
      ((reservedOpcode_eq_bit3 (c := Config.default) rfl (Nat.le_refl 2) op).trans hbit)
  · have hedge (cap : Option (Levels s.cfg)) : edge (inputsOf (some op) cap false) s.block =
        (s.block.respond 0#s.cfg.respWidth true).withCapture cap := by
      rw [edge_command, hr]
      rfl
    refine ⟨(run_one_iff _ _ _).2 (hedge cap).symm, fun later t hrun => ?_⟩
    obtain rfl := (run_iff _ _ t).1 hrun
    rw [run_one_iff, edges_cons, edges_cons, edges_nil, hedge, withCapture_none, edge_respond]

/-! ### The idle step -/

/-- Settles O16: the idle step's edge clears the response and applies the capture, if the strobe is set. -/
theorem idleStepOnlyClearsTheResponse : Obligations.IdleStepOnlyClearsTheResponse := by
  intro c s op strobe pins
  rw [run_one_iff, edge_of_not_rst rfl]
  cases strobe with
  | true => rfl
  | false => rfl

end Sys2Proof.Machine
end

section
/-! PROOFS. The completion statements (60_exceptions.md): nothing faults, stalls or is refused, and every command answers in
its own step. -/

namespace Sys2Proof.Machine

/-- Settles O9: the next state is the one the clock edge leaves. -/
theorem everyStepCompletes : Obligations.EveryStepCompletes := fun s => ⟨_, step_eq_edge s⟩

/-- Settles O10: the block's next state is the command's effect, whose response registers are known for every command. -/
theorem everyCommandCompletesWithAResponse : Obligations.EveryCommandCompletesWithAResponse :=
  fun i s hc => ⟨effect i s.block, exec_eq_effect i s, effect_respValid hc s.block, effect_respErr_iff hc s.block⟩

end Sys2Proof.Machine
end

section
/-! PROOFS. The reset and hazard statements (70_reset_and_hazards.md): what a reset step leaves, what is reported before and
after the first capture, priming the trackers, and a capture beside an UPDATE. -/

namespace Sys2Proof.Machine

variable {c : Config}

/-! ### Reset -/

/-- Settles O34: the other ports do not matter in a reset step, and the tabled state is the block's reset state. -/
theorem resetStepLoadsEveryField : Obligations.ResetStepLoadsEveryField := by
  intro c s inp hrst
  exact (run_one_iff inp s _).2 (edge_of_rst hrst s).symm

/-- A run whose last step is a reset step ends in the reset state. -/
theorem edges_concat_of_rst (xs : List (Inputs c)) {x : Inputs c} (hrst : x.rst = true) (s : Block c) :
    edges (xs ++ [x]) s = Block.resetState c := by
  rw [edges_append, edges_cons, edges_nil, edge_of_rst hrst]

/-- Settles O35: the last of the steps is a reset step, whatever the ones before it left. -/
theorem resetDiscardsCommandAndCapture : Obligations.ResetDiscardsCommandAndCapture := by
  intro c xs s t hne hrst hrun
  obtain rfl := (run_iff xs s t).1 hrun
  have hend : edges xs s = Block.resetState c := by
    rw [← List.dropLast_concat_getLast hne]
    exact edges_concat_of_rst _ (hrst _ (List.getLast_mem hne)) s
  rw [hend]
  exact ⟨rfl, rfl, rfl, rfl⟩

/-! ### Before the first capture -/

/-- An edge leaves a tracker as reset does, where the tracker, the levels and the flag were: its UPDATE finds no flag and
stores RESET_LEVELS again, and a query finds it Idle (R172). -/
theorem edge_tracker_of_quiet {t : TrackerId} {s : Block c} (hL : s.L = c.resetLevels) (hCF : s.CF = false)
    (ht : s.tracker t = resetTracker c) (x : Inputs c) : (edge x s).tracker t = resetTracker c := by
  rw [edge_tracker, hL, hCF, relevantChange_noFlag, ht]
  simp only [resetTracker, ite_self]

/-- A step without a capture, whatever its command, leaves a block as reset left it (R172). -/
theorem edge_quiet {s : Block c} (hs : s.Quiet) {x : Inputs c} (hx : captured? x = none) : (edge x s).Quiet := by
  obtain ⟨hL, hCF, hrot, hsnz⟩ := hs
  have hxs : ∀ i ∈ [x], captured? i = none := List.forall_mem_singleton.2 hx
  exact ⟨edges_L_of_no_capture hL hxs, edges_CF_of_no_capture hxs hCF, edge_tracker_of_quiet hL hCF hrot x,
    edge_tracker_of_quiet hL hCF hsnz x⟩

/-- A run without a capture leaves a block as reset left it (R172). -/
theorem edges_quiet {xs : List (Inputs c)} (hxs : ∀ i ∈ xs, captured? i = none) {s : Block c} (hs : s.Quiet) :
    (edges xs s).Quiet := by
  induction xs generalizing s with
  | nil => exact hs
  | cons x xs ih =>
    obtain ⟨hx, hxs⟩ := List.forall_mem_cons.1 hxs
    exact ih hxs (edge_quiet hs hx)

/-- Before the first capture every command but SNAPSHOT answers data 0: CONSUME_CHANGED finds no flag, and each query finds
its tracker Idle (R172). -/
theorem effect_respData_of_quiet {s : Block c} (hs : s.Quiet) {i : Instr} (hc : i.isCommand = true) (hi : i ≠ .snapshot) :
    (effect i s).respData = 0#c.respWidth := by
  obtain ⟨-, hCF, hrot, hsnz⟩ := hs
  cases i with
  | snapshot => exact absurd rfl hi
  | consumeChanged => rw [effect_consumeChanged, hCF]; rfl
  | rotCw | rotPress => exact query_idle (congrArg Tracker.rc hrot) _
  | snzPress => exact query_idle (congrArg Tracker.rc hsnz) _
  | capture => exact absurd hc Bool.false_ne_true
  | _ => rfl

/-- Settles O36: the block stays as reset left it over the run and over the last step, whose answer reads such a block. -/
theorem nothingIsReportedBeforeTheFirstCapture : Obligations.NothingIsReportedBeforeTheFirstCapture := by
  intro c xs s t u op hs hxs hrun hstep
  obtain rfl := (run_iff xs s t).1 hrun
  obtain rfl := (run_one_iff _ _ u).1 hstep
  have ht : (edges xs s).Quiet := edges_quiet hxs hs
  obtain ⟨-, -, hrot, hsnz⟩ := edge_quiet ht (x := inputsOf (some op) none false) rfl
  refine ⟨ht, fun hop => ?_, fun hop => ?_, congrArg Tracker.rc hrot, congrArg Tracker.rc hsnz⟩
  · obtain ⟨hL, -⟩ := ht
    rw [edge_command, hop, ← hL]
    rfl
  · rw [edge_command, withCapture_none]
    exact effect_respData_of_quiet ht (decodeCommand_isCommand c op) hop

/-! ### The first capture -/

/-- The first UPDATE after a capture stores the capture's pins and compares them with the tracker's previous levels
(41_debounce_trackers.md R103). -/
theorem edges_capture_update_tracker {t : TrackerId} {op : Opcode c} (hop : decodeCommand c op = updateOf t)
    (pins : Levels c) (s : Block c) :
    (edges [inputsOf none (some pins) false, inputsOf (some op) none false] s).tracker t =
      { prev := pins, rc := relevantChange true (watchMask c t) pins (s.tracker t).prev } := by
  rw [edges_cons, edges_cons, edges_nil, edge_update_tracker hop, edge_idle, withCapture_some, Block.capture_L,
    Block.capture_CF, Block.capture_tracker, Block.noResponse_tracker]

/-- Level vectors that differ in a watched bit differ under the mask (R101). -/
theorem and_mask_ne_of_bit {n i : Nat} {v w m : BitVec n} (hm : m.getLsbD i = true) (h : v.getLsbD i ≠ w.getLsbD i) :
    v &&& m ≠ w &&& m := by
  intro heq
  have hbit : (v &&& m).getLsbD i = (w &&& m).getLsbD i := by rw [heq]
  rw [BitVec.getLsbD_and, BitVec.getLsbD_and, hm, Bool.and_true, Bool.and_true] at hbit
  exact h hbit

/-- The first tracker to UPDATE after the first capture since reset finds a change where a line it watches is off its reset
level (R172). -/
theorem firstCapture_tracker {t : TrackerId} {op : Opcode c} (hop : decodeCommand c op = updateOf t) {pins : Levels c}
    {l : Line} (hwatch : (watchMask c t).getLsbD (lineBit c.lines l) = true)
    (hl : level c pins l ≠ level c c.resetLevels l) :
    (edges [inputsOf none (some pins) false, inputsOf (some op) none false] (Block.resetState c)).tracker t =
      { prev := pins, rc := true } := by
  rw [edges_capture_update_tracker hop, Block.resetState_tracker,
    (relevantChange_iff _ _ _ _).2 ⟨rfl, and_mask_ne_of_bit hwatch hl⟩]

/-- A step with a query of a tracker that has seen a change answers the query's test of the previous levels (R102). -/
theorem run_query_of_change {t : TrackerId} {v : Levels c} {s u : Block c} (hs : s.tracker t = { prev := v, rc := true })
    {op : Opcode c} (test : Levels c → Bool) (heffect : effect (decodeCommand c op) s = s.query t test)
    (hrun : Run [inputsOf (some op) none false] s u) : u.respData = answer c (test v) := by
  obtain rfl := (run_one_iff _ s u).1 hrun
  rw [edge_command, withCapture_none, heffect, Block.query_respData_of_change hs]

/-- Settles O37: the tracker's button line is off its reset level, so the tracker has seen a change to the pins, and each
query answers its test of them. -/
theorem firstCaptureAfterResetReportsNoPress : Obligations.FirstCaptureAfterResetReportsNoPress := by
  intro a b t pins
  have hpins : ∀ l, level Config.default pins l = _ := getLsbD_pinsOf (by decide) _
  refine ⟨fun hrun => ?_, fun hrun => ?_⟩
  · obtain rfl := (run_iff _ _ t).1 hrun
    have hrecord := firstCapture_tracker (c := Config.default) (t := .snz) (op := 0x6#4) rfl (pins := pins)
      (l := .snoozeButton) rfl ((hpins _).trans_ne Bool.false_ne_true.symm)
    refine ⟨congrArg Tracker.rc hrecord, fun u hu => ?_⟩
    rw [run_query_of_change hrecord (snoozePressed _) rfl hu, snoozePressed, hpins]
    rfl
  · obtain rfl := (run_iff _ _ t).1 hrun
    have hrecord := firstCapture_tracker (c := Config.default) (t := .rot) (op := 0x3#4) rfl (pins := pins)
      (l := .rotaryButton) rfl ((hpins _).trans_ne Bool.false_ne_true.symm)
    refine ⟨congrArg Tracker.rc hrecord, fun u hu => ?_, fun u hu => ?_⟩
    · rw [run_query_of_change hrecord (rotaryPressed _) rfl hu, rotaryPressed, hpins]
      rfl
    · rw [run_query_of_change hrecord (phase _) rfl hu, phase, hpins, hpins]
      rfl

/-! ### Priming -/

/-- After a capture and both UPDATEs the levels and both previous levels are the capture's pins, and the later UPDATE, which
finds no flag, leaves its tracker Idle (R174). -/
theorem run_prime {t t' : TrackerId} (hne : t ≠ t') {upd upd' : Opcode c} (hupd : decodeCommand c upd = updateOf t)
    (hupd' : decodeCommand c upd' = updateOf t') {pins : Levels c} {s u : Block c}
    (hrun : Run [inputsOf none (some pins) false, inputsOf (some upd) none false, inputsOf (some upd') none false] s u) :
    u.L = pins ∧ (u.tracker t).prev = pins ∧ u.tracker t' = { prev := pins, rc := false } := by
  obtain ⟨v, hv, hu⟩ := (runsCompose c [inputsOf none (some pins) false, inputsOf (some upd) none false]
    [inputsOf (some upd') none false] s u).1 hrun
  obtain rfl := (run_iff _ s v).1 hv
  obtain rfl := (run_one_iff _ _ u).1 hu
  have hL : (edges [inputsOf none (some pins) false, inputsOf (some upd) none false] s).L = pins := by
    rw [edges_cons, edges_cons, edges_nil, edge_L_of_not_rst rfl, edge_L_of_not_rst rfl]
    rfl
  have hCF : (edges [inputsOf none (some pins) false, inputsOf (some upd) none false] s).CF = false :=
    edge_poll_CF (hupd ▸ updateOf_mem_polls t) _
  refine ⟨(edge_L_of_not_rst rfl _).trans hL, ?_, ?_⟩
  · rw [edge_command, hupd', effect_updateOf, withCapture_none, Block.update_tracker_ne hne, edges_capture_update_tracker hupd]
  · rw [edge_update_tracker hupd', hL, hCF, relevantChange_noFlag]

/-- Settles O38: in either order the later of the two trackers is the Idle one. -/
theorem primingInEitherOrderLoadsBothTrackers : Obligations.PrimingInEitherOrderLoadsBothTrackers := by
  rintro c s t pins rot snz hrot hsnz (hrun | hrun)
  · obtain ⟨hL, hfirst, hlater⟩ := run_prime (t := .snz) (t' := .rot) (by decide) hsnz hrot hrun
    rw [hL, hfirst, hlater]
    exact ⟨rfl, rfl, rfl, .inl rfl⟩
  · obtain ⟨hL, hfirst, hlater⟩ := run_prime (t := .rot) (t' := .snz) (by decide) hrot hsnz hrun
    rw [hL, hfirst, hlater]
    exact ⟨rfl, rfl, rfl, .inr rfl⟩

/-! ### A capture beside an UPDATE -/

/-- Settles O47: the UPDATE reads the levels and the flag from before the step, and the next poll those its capture left. -/
theorem captureBesideAnUpdateIsSeenByTheNextPoll : Obligations.CaptureBesideAnUpdateIsSeenByTheNextPoll := by
  intro c tr s t pins upd hupd hrun
  obtain ⟨hCF, hL⟩ := sameStepCaptureIsNotLost c s t upd pins hrun
  have hrecord : t.tracker tr = { prev := s.L, rc := relevantChange s.CF (watchMask c tr) s.L (s.tracker tr).prev } := by
    obtain rfl := (run_one_iff _ s t).1 hrun
    exact edge_update_tracker hupd (some pins) s
  refine ⟨by rw [hrecord], by rw [hrecord, relevantChange_iff], hCF, hL, fun op u hop hu => ?_, fun u hu => ?_⟩
  · obtain rfl := (run_one_iff _ t u).1 hu
    rw [edge_consume_respData hop, hCF]
  · obtain rfl := (run_one_iff _ t u).1 hu
    rw [edge_update_tracker hupd, relevantChange_iff, hCF, hL, hrecord, and_iff_right rfl]

end Sys2Proof.Machine
end
